-- ==== Sys2Proof/Word.lean ====
section
/-! DEFINITION. The plain value types: bytes, nibbles, buffers and pin identifiers. -/

namespace Sys2Proof

/-- A byte of a buffer, or a command byte: 0..255 (R51, R75). -/
abbrev Byte := BitVec 8

/-- A nibble, the 4-bit ADPCM code (R70). All 16 values are legal (R71). -/
abbrev Nibble := BitVec 4

/-- A buffer: a finite sequence of bytes of any length, 0 included (R51). -/
abbrev Buffer := List Byte

/-- The 32-bit two's-complement pattern of an `INT` operand (R76, D8). -/
abbrev IntPattern := BitVec 32

/-- An output-pin identifier (R29). DESIGN CHOICE (log entry 3, safe): `PinId` is an OPEN type with
decidable equality; the model takes labels that nothing ever interprets or computes with. -/
structure PinId where
  label : Nat
deriving DecidableEq, Repr

end Sys2Proof
end

