-- ==== Sys2Proof/Config.lean ====
section
/-! DEFINITION. The implementation parameters of R6: fixed constants, and the structure `Config` of the
OPEN parameters with the two codec tables. -/

namespace Sys2Proof

/-- `PRED_MIN` (R6). -/
def predMin : Int := -128

/-- `PRED_MAX` (R6). -/
def predMax : Int := 127

/-- `SIDX_MAX` (R6). -/
def sidxMax : Int := 88

/-- `VOL_MAX` (R6). -/
def volMax : Int := 255

/-- `US_PER_SECOND` (R6), the numerator of the sample period. -/
def usPerSecond : Nat := 1000000

/-- The bounds of an `INT` operand, `OPERAND_BITS` = 32 (R6, R76). -/
def intMin : Int := -2147483648

/-- See `intMin`. -/
def intMax : Int := 2147483647

/-- The largest legal `RATE`, 2^31-1 (R30). -/
def rateMax : Nat := 2147483647

/-- The parameters of R6 that an implementation fixes. No step writes them (R34, D5, D11, D24): they
are data in State, so a claim about every state is a claim about every value of the parameters. -/
structure Config where
  /-- `STEP_TABLE` (R90, R91). -/
  stepTable : Vector Nat 89
  /-- `INDEX_TABLE` (R92, R93). -/
  indexTable : Vector Int 16
  /-- `RESET_PIN`, OPEN (D5). -/
  resetPin : PinId
  /-- `RESET_RATE`, OPEN (D5). -/
  resetRate : Nat
  /-- `RESET_VOLUME`, OPEN (D5). -/
  resetVolume : Nat
  /-- `QUEUE_CAP`, OPEN: `none` is unbounded (D11). -/
  queueCap : Option Nat
deriving DecidableEq, Repr

/-- The rows of the step table of R90. -/
def stepRows : List Nat :=
  [7, 8, 9, 10, 11, 12, 13, 14, 16, 17] ++
  [19, 21, 23, 25, 28, 31, 34, 37, 41, 45] ++
  [50, 55, 60, 66, 73, 80, 88, 97, 107, 118] ++
  [130, 143, 157, 173, 190, 209, 230, 253, 279, 307] ++
  [337, 371, 408, 449, 494, 544, 598, 658, 724, 796] ++
  [876, 963, 1060, 1166, 1282, 1411, 1552, 1707, 1878, 2066] ++
  [2272, 2499, 2749, 3024, 3327, 3660, 4026, 4428, 4871, 5358] ++
  [5894, 6484, 7132, 7845, 8630, 9493, 10442, 11487, 12635, 13899] ++
  [15289, 16818, 18500, 20350, 22385, 24623, 27086, 29794, 32767]

/-- The default `STEP_TABLE` of R90. PRESUMED (log entry 1, unsafe): the spec supplies the values from
general knowledge. -/
def defaultStepTable : Vector Nat 89 := ⟨stepRows.toArray, rfl⟩

/-- The default `INDEX_TABLE` of R92. PRESUMED (log entry 1, unsafe). -/
def defaultIndexTable : Vector Int 16 :=
  ⟨([-1, -1, -1, -1, 2, 4, 6, 8] ++ [-1, -1, -1, -1, 2, 4, 6, 8]).toArray, rfl⟩

/-- The parameters of `State.reset`. DESIGN CHOICE (log entry 2, unsafe): pin, rate and volume are
those shown in line 0 of the programs of 95_test_vectors.md; the queue is unbounded, R6's default. -/
def defaultConfig : Config where
  stepTable := defaultStepTable
  indexTable := defaultIndexTable
  resetPin := ⟨0⟩
  resetRate := 8000
  resetVolume := 255
  queueCap := none

end Sys2Proof
end

