-- ==== Sys2Proof/Syntax.lean ====
section
/-! DEFINITION. The commands of the opcode map (R78), one constructor per row of
spec/opcode_table.json, and the form in which a command stands at the command port (R75, R76). -/

namespace Sys2Proof

/-- A command with its operand (R76, R78). The sequencer's steps are not commands (R84). -/
inductive Instr where
  /-- DECODE_BUF, opcode 0x1, operand BUF (R111). -/
  | decodeBuf (buf : Buffer)
  /-- PLAY, opcode 0x2, operand BUF (R131). -/
  | play (buf : Buffer)
  /-- QUEUE, opcode 0x3, operand BUF (R132). -/
  | queue (buf : Buffer)
  /-- STOP, opcode 0x4 (R133). -/
  | stop
  /-- PAUSE, opcode 0x5 (R134). -/
  | pause
  /-- RESUME, opcode 0x6 (R135). -/
  | resume
  /-- SET_PIN, opcode 0x7, operand PIN (R136). -/
  | setPin (pin : PinId)
  /-- SET_RATE, opcode 0x8, operand INT (R137). -/
  | setRate (rate : Int)
  /-- SET_VOL, opcode 0x9, operand INT (R138). -/
  | setVol (vol : Int)
  /-- CLEAR_QUEUE, opcode 0xA (R124). -/
  | clearQueue
  /-- DECODE_NIB, opcode 0xB, operand NIB in `ARG4` (R110). -/
  | decodeNib (n : Nibble)
deriving DecidableEq, Repr

/-- A command as it stands at the port: the command byte, and beside it one lane for each operand type
of R76 that has no bits in the byte. An opcode reads the lane of its own operand type.
DESIGN CHOICE (log entry 7, safe): the lanes an opcode does not name are ignored. -/
structure Command where
  byte : Byte
  buf : Buffer
  int : IntPattern
  pin : PinId
deriving DecidableEq, Repr

end Sys2Proof
end

