-- ==== Sys2Proof/WellFormed.lean ====
section
/-! DEFINITION. Which instructions the encoding can express, and which parameter values the spec allows. -/

namespace Sys2Proof

/-- The range of an `INT` operand, -2^31..2^31-1 (R76). -/
def intInRange (v : Int) : Bool := decide (intMin ≤ v ∧ v ≤ intMax)

/-- An instruction is well formed when its operand is in the range of its kind (R76). Buffers, pins and
nibbles are in range by their types. -/
def Instr.wellFormed : Instr → Bool
  | .decodeBuf _ => true
  | .play _ => true
  | .queue _ => true
  | .stop => true
  | .pause => true
  | .resume => true
  | .setPin _ => true
  | .setRate r => intInRange r
  | .setVol v => intInRange v
  | .clearQueue => true
  | .decodeNib _ => true

/-- R91: every entry is in 7..32767, the entries rise monotonically, and entry 0 is 7. The size 89 is
in the type. -/
def stepTableOk (t : Vector Nat 89) : Bool :=
  t.toList.all (fun x => decide (7 ≤ x ∧ x ≤ 32767)) &&
    (t.toList.zip t.toList.tail).all (fun p => decide (p.1 ≤ p.2)) &&
    decide (t[(0 : Fin 89)] = 7)

/-- R93: every entry is one of -1, 2, 4, 6, 8, and entry 15 is 8. The size 16 is in the type. -/
def indexTableOk (t : Vector Int 16) : Bool :=
  t.toList.all (fun x => decide (x = -1 ∨ x = 2 ∨ x = 4 ∨ x = 6 ∨ x = 8)) &&
    decide (t[(15 : Fin 16)] = 8)

/-- R6: a finite `QUEUE_CAP` is a natural number >= 1. -/
def queueCapOk : Option Nat → Bool
  | none => true
  | some cap => decide (1 ≤ cap)

/-- The parameter values R6, R91 and R93 allow. DEDUCED (log entry 14, safe): `RESET_RATE` is also at
most 2^31-1, since `RATE` takes it (R30). -/
def Config.wellFormed (c : Config) : Bool :=
  stepTableOk c.stepTable && indexTableOk c.indexTable &&
    decide (1 ≤ c.resetRate ∧ c.resetRate ≤ rateMax) && decide (c.resetVolume ≤ 255) &&
    queueCapOk c.queueCap

end Sys2Proof
end

