-- ==== Sys2Proof/Decode.lean ====
section
/-! DEFINITION. The command decoder of R77 to R80, total over all 256 command bytes, and the encoder
written from the same opcode map. -/

namespace Sys2Proof

/-- Why a command byte is no command (R79). Both raise ILLEGAL_COMMAND (R192). -/
inductive DecodeError where
  /-- `OP` is 0x0 or 0xC to 0xF. -/
  | reservedOpcode
  /-- `ARG4` is not 0 on an opcode other than 0xB. -/
  | nonzeroArg4
deriving DecidableEq, Repr

/-- `OP = CMD[3:0]` (R75). -/
def opField (b : Byte) : Nibble := b.extractLsb' 0 4

/-- `ARG4 = CMD[7:4]` (R75). -/
def arg4Field (b : Byte) : Nibble := b.extractLsb' 4 4

/-- The byte with the given `ARG4` and `OP` (R75). -/
def commandByte (arg4 op : Nibble) : Byte := arg4 ++ op

/-- Check 2 of R77: every opcode other than 0xB needs `ARG4 = 0`. -/
def needsZeroArg4 (arg4 : Nibble) (i : Instr) : Except DecodeError Instr :=
  if arg4 = 0#4 then .ok i else .error .nonzeroArg4

/-- Decoding a command (R77, R78, R80): first the opcode, then `ARG4`. -/
def decode (c : Command) : Except DecodeError Instr :=
  match opField c.byte with
  | 0x1#4 => needsZeroArg4 (arg4Field c.byte) (.decodeBuf c.buf)
  | 0x2#4 => needsZeroArg4 (arg4Field c.byte) (.play c.buf)
  | 0x3#4 => needsZeroArg4 (arg4Field c.byte) (.queue c.buf)
  | 0x4#4 => needsZeroArg4 (arg4Field c.byte) .stop
  | 0x5#4 => needsZeroArg4 (arg4Field c.byte) .pause
  | 0x6#4 => needsZeroArg4 (arg4Field c.byte) .resume
  | 0x7#4 => needsZeroArg4 (arg4Field c.byte) (.setPin c.pin)
  | 0x8#4 => needsZeroArg4 (arg4Field c.byte) (.setRate c.int.toInt)
  | 0x9#4 => needsZeroArg4 (arg4Field c.byte) (.setVol c.int.toInt)
  | 0xA#4 => needsZeroArg4 (arg4Field c.byte) .clearQueue
  | 0xB#4 => .ok (.decodeNib (arg4Field c.byte))
  | _ => .error .reservedOpcode

/-- A command byte with nothing on the operand lanes. -/
def bareCommand (b : Byte) : Command := { byte := b, buf := [], int := 0#32, pin := ⟨0⟩ }

/-- The command of an instruction, from the opcode map of R78. -/
def encode : Instr → Command
  | .decodeBuf b => { bareCommand (commandByte 0x0#4 0x1#4) with buf := b }
  | .play b => { bareCommand (commandByte 0x0#4 0x2#4) with buf := b }
  | .queue b => { bareCommand (commandByte 0x0#4 0x3#4) with buf := b }
  | .stop => bareCommand (commandByte 0x0#4 0x4#4)
  | .pause => bareCommand (commandByte 0x0#4 0x5#4)
  | .resume => bareCommand (commandByte 0x0#4 0x6#4)
  | .setPin p => { bareCommand (commandByte 0x0#4 0x7#4) with pin := p }
  | .setRate r => { bareCommand (commandByte 0x0#4 0x8#4) with int := BitVec.ofInt 32 r }
  | .setVol v => { bareCommand (commandByte 0x0#4 0x9#4) with int := BitVec.ofInt 32 v }
  | .clearQueue => bareCommand (commandByte 0x0#4 0xA#4)
  | .decodeNib n => bareCommand (commandByte n 0xB#4)

/-- The command of a table word: its lowest byte is the command byte, and the operand lanes, to which
the table gives no bits, hold zeros (an empty buffer, the integer 0, the pin labelled 0). A command is
exactly one byte (R81), so bits above it belong to no command (log entry 9). -/
def commandOfTableWord (nbits w : Nat) : Command :=
  bareCommand (BitVec.ofNat 8 (w % 2 ^ nbits))

/-- The instruction the decoder reads from a table word. -/
def decodeTableWord (nbits w : Nat) : Option Instr :=
  match decode (commandOfTableWord nbits w) with
  | .ok i => some i
  | .error _ => none

end Sys2Proof
end

