-- ==== Sys2Proof/Machine/State.lean ====
section
/-! DEFINITION. The machine's state as plain data (R20), the reset state (R220), and the reasons a step
of the model can stop. -/

namespace Sys2Proof.Machine

/-- `SEQ_PHASE` (R35). -/
inductive SeqPhase where
  /-- No task is active. -/
  | off
  /-- A task is scheduled and will next take a buffer from the queue. -/
  | fetch
  /-- The low-nibble sample of the current byte is written; its wait is running. -/
  | waitLo
  /-- The high-nibble sample of the current byte is written; its wait is running. -/
  | waitHi
deriving DecidableEq, Repr

/-- The engine states that `PLAYING` and `PAUSED` encode (R27). -/
inductive EngineState where
  | idle
  | playing
  | paused
deriving DecidableEq, Repr

/-- The causes of a fault (R38, R192 to R195). -/
inductive Cause where
  /-- Cause 1, `FAULT` bit 0 (R192). -/
  | illegalCommand
  /-- Cause 2, `FAULT` bit 1 (R193). -/
  | badRate
  /-- Cause 3, `FAULT` bit 2 (R194). -/
  | decodeWhileActive
  /-- Cause 4, `FAULT` bit 3 (R195). -/
  | queueOverflow
deriving DecidableEq, Repr

/-- An event of the output trace (R39). -/
inductive Event where
  /-- `write(pin, v)` to the output sink. -/
  | write (pin : PinId) (v : Nat)
  /-- `waitMicroseconds(us)` to the timer. -/
  | wait (us : Nat)
deriving DecidableEq, Repr

/-- What a command answers its issuer (R201). -/
inductive Response where
  /-- DECODE_NIB's sample (R110). -/
  | sample (x : Nat)
  /-- DECODE_BUF's samples (R111). -/
  | samples (xs : List Nat)
deriving DecidableEq, Repr

/-- The decoder state `{PRED, SIDX}` (R21, R22, R24). `PRED` is an exact integer (R7); that it stays in
-128..127 is an invariant (R23). -/
structure DecoderState where
  pred : Int
  sidx : Fin 89
deriving DecidableEq, Repr

/-- One move of the outside world (R59, R220; log entry 5). -/
inductive Input where
  /-- A command arrives at the command port (R201). -/
  | command (c : Command)
  /-- The scheduled task starts, or the running wait ends (R160). -/
  | sequencer
  /-- Reset (R220). -/
  | reset
deriving DecidableEq, Repr

/-- The machine (R20). -/
structure State where
  /-- The implementation parameters and the two codec tables (R6, R34); never written. -/
  cfg : Config
  /-- `PRED` and `SIDX`. -/
  dec : DecoderState
  /-- `PLAYING` (R25). -/
  playing : Bool
  /-- `PAUSED` (R26). -/
  paused : Bool
  /-- `PIN` (R29). -/
  pin : PinId
  /-- `RATE` (R30). -/
  rate : Nat
  /-- `VOL` (R31). -/
  vol : Nat
  /-- `QUEUE`, front first (R33, R120). -/
  queue : List Buffer
  /-- `SEQ_PHASE` (R35). -/
  seqPhase : SeqPhase
  /-- `CUR_BUF` (R35). -/
  curBuf : Buffer
  /-- `BYTE_IDX` (R35). -/
  byteIdx : Nat
  /-- `ABORT_REQ` (R36). -/
  abortReq : Bool
  /-- `START_PEND` (R37). -/
  startPend : Bool
  /-- `FAULT` (R38). -/
  faultReg : BitVec 4
  /-- The output trace, oldest event first (R39). -/
  trace : List Event
  /-- What the port answered to the latest command (R201). DESIGN CHOICE (log entry 8, safe): kept
  until the next command; no step reads it. -/
  response : Option Response
  /-- What the outside world does next, oldest first. DESIGN CHOICE (log entry 5, safe): the free order
  of R59 as plain data. -/
  inputs : List Input
deriving DecidableEq, Repr

/-- Why a step of the model can stop. The block itself never stops: its own faults are recorded in
`FAULT` and it goes on (R191). -/
inductive Fault where
  /-- Raised by SEQ_LO_DONE, SEQ_HI_DONE and Check when `CUR_BUF[BYTE_IDX]` does not exist. R28 (e) rules
  such states out and the spec gives them no step. DEDUCED (log entry 10); safe. -/
  | positionOutsideBuffer
deriving DecidableEq, Repr

/-- Why the model has no meaning for an instruction. -/
inductive Refusal where
  /-- An instruction that the model does not cover; raised only by an arm of `exec`, and by none now.
  Safe. -/
  | notModelled (mnemonic : String)
deriving DecidableEq, Repr

/-- What a command or a sequencer step answers. -/
abbrev Result := Host.Outcome State Fault Refusal

/-- Every element at its reset value (R220), for the given parameters, with nothing arriving from the
outside. -/
def State.resetWith (cfg : Config) : State where
  cfg := cfg
  dec := ⟨0, 0⟩
  playing := false
  paused := false
  pin := cfg.resetPin
  rate := cfg.resetRate
  vol := cfg.resetVolume
  queue := []
  seqPhase := .off
  curBuf := []
  byteIdx := 0
  abortReq := false
  startPend := false
  faultReg := 0#4
  trace := []
  response := none
  inputs := []

/-- The machine right after reset, with the default parameters. -/
def State.reset : State := State.resetWith defaultConfig

end Sys2Proof.Machine
end

