-- ==== Sys2Proof/Machine/Operands.lean ====
section
/-! DEFINITION. The operand forms and arithmetic primitives the commands and steps share: nibbles of a
byte (R53), the clamp of R7, the ADPCM difference (R100), the intensity (R165) and the sample period
(R166). -/

namespace Sys2Proof.Machine

/-- The code of a byte that is decoded first, `b[3:0]` (R53). -/
def lowNibble (b : Byte) : Nibble := b.extractLsb' 0 4

/-- The code of a byte that is decoded second, `b[7:4]` (R53). -/
def highNibble (b : Byte) : Nibble := b.extractLsb' 4 4

/-- `clamp(v, lo, hi)` (R7). -/
def clamp (v lo hi : Int) : Int := if v < lo then lo else if v > hi then hi else v

theorem clamp_bounds (v : Int) {lo hi : Int} (h : lo ≤ hi) :
    lo ≤ clamp v lo hi ∧ clamp v lo hi ≤ hi := by
  unfold clamp
  split
  · omega
  · split <;> omega

/-- The magnitude of the difference (R102): the base term, and one separately shifted term for each
magnitude bit. -/
def magnitude (step : Nat) (n : Nibble) : Nat :=
  (step >>> 3) + (if n.getLsbD 0 then step >>> 2 else 0) +
    (if n.getLsbD 1 then step >>> 1 else 0) + (if n.getLsbD 2 then step else 0)

/-- The signed difference (R103). -/
def difference (step : Nat) (n : Nibble) : Int :=
  if n.getLsbD 3 then -(magnitude step n : Int) else (magnitude step n : Int)

/-- The clamped step index as an index of the step table (R105). -/
def clampIndex (v : Int) : Fin 89 :=
  ⟨(clamp v 0 sidxMax).toNat, by
    have := clamp_bounds v (lo := 0) (hi := sidxMax) (by decide)
    simp only [sidxMax] at this ⊢
    omega⟩

/-- The decoder state after one nibble (R100 steps 1 to 5): the step is read at the old index. -/
def decodeState (cfg : Config) (n : Nibble) (d : DecoderState) : DecoderState where
  pred := clamp (d.pred + difference cfg.stepTable[d.sidx] n) predMin predMax
  sidx := clampIndex ((d.sidx.val : Int) + cfg.indexTable[n.toFin])

/-- The sample of a decoder state, `PRED + 128` (R106). -/
def sampleOf (d : DecoderState) : Nat := (d.pred + 128).toNat

/-- The intensity written for a sample (R165). -/
def intensity (sample vol : Nat) : Nat := (sample * vol) >>> 8

/-- The sample period in microseconds (R166): the floor of the quotient. -/
def samplePeriod (rate : Nat) : Nat := usPerSecond / rate

end Sys2Proof.Machine
end

