-- ==== Sys2Proof/Machine/Flags.lean ====
section
/-! DEFINITION. What the flags and latches say: the engine state (R27), activity (R10), the continuation
condition (R161), and the bit of each fault cause (R38). -/

namespace Sys2Proof.Machine

/-- The engine state as a function of `PLAYING` and `PAUSED` (R27). -/
def State.engine (s : State) : EngineState :=
  if s.playing then (if s.paused then .paused else .playing) else .idle

/-- A task is scheduled or running, `SEQ_PHASE != OFF` (R10). -/
def State.active (s : State) : Bool := decide (s.seqPhase ≠ .off)

/-- The continuation condition OK (R161). -/
def State.continues (s : State) : Bool := s.playing && !s.paused && !s.abortReq

/-- The number of a fault cause (R38). -/
def Cause.number : Cause → Nat
  | .illegalCommand => 1
  | .badRate => 2
  | .decodeWhileActive => 3
  | .queueOverflow => 4

/-- `1 << (c - 1)`, the bit that cause `c` sets (R191). -/
def Cause.bit (c : Cause) : BitVec 4 := 1#4 <<< (c.number - 1)

end Sys2Proof.Machine
end

