-- ==== Sys2Proof/Machine/Ops.lean ====
section
/-! DEFINITION. The primitives of R8 over the state, each once: how a command ends (with no response, a
response, or a fault), the sink and the timer, the decode primitive, the queue primitives, Start, Emit
and Exit. -/

namespace Sys2Proof.Machine

/-- `SinkWrite(pin, v)` (R8, R203). -/
def sinkWrite (p : PinId) (v : Nat) (s : State) : State :=
  { s with trace := s.trace ++ [.write p v] }

/-- `TimerWait(us)` (R8, R202). -/
def timerWait (us : Nat) (s : State) : State :=
  { s with trace := s.trace ++ [.wait us] }

/-- A command ends with the given response on the port (R201). -/
def respond (r : Option Response) (s : State) : State := { s with response := r }

/-- A command ends with no response (R201). -/
def finish (s : State) : Result := .next (respond none s)

/-- `Respond(v)` (R8). -/
def answer (r : Response) (s : State) : Result := .next (respond (some r) s)

/-- The sticky record of a fault (R191). -/
def recordFault (c : Cause) (s : State) : State := { s with faultReg := s.faultReg ||| c.bit }

/-- `raise Fault(c)` (R191): the block's only exception. The bit is recorded and the command ends with
no other effect and no response. Nothing is saved, no mode changes and control goes nowhere, so there
is no return from it (R197). -/
def raiseFault (c : Cause) (s : State) : Result := finish (recordFault c s)

/-- The new decoder state, stored (R100). -/
def setDecoder (d : DecoderState) (s : State) : State := { s with dec := d }

/-- `Decode(n)` (R100): the new decoder state and the sample. -/
def decodeNibble (cfg : Config) (n : Nibble) (d : DecoderState) : DecoderState × Nat :=
  (decodeState cfg n d, sampleOf (decodeState cfg n d))

/-- The loop of R111: every byte in index order, low nibble first, gathering the samples. -/
def decodeBytes (cfg : Config) : Buffer → DecoderState → DecoderState × List Nat
  | [], d => (d, [])
  | b :: rest, d =>
    let lo := decodeNibble cfg (lowNibble b) d
    let hi := decodeNibble cfg (highNibble b) lo.1
    let more := decodeBytes cfg rest hi.1
    (more.1, lo.2 :: hi.2 :: more.2)

/-- `QUEUE_CAP` is finite and reached (R121). -/
def queueFull (s : State) : Bool :=
  match s.cfg.queueCap with
  | none => false
  | some cap => decide (cap ≤ s.queue.length)

/-- The append of `Enqueue(b)` (R121), for a queue that is not full. -/
def appendBuffer (b : Buffer) (s : State) : State := { s with queue := s.queue ++ [b] }

/-- `ClearQueue()` (R123). -/
def clearQueue (s : State) : State := { s with queue := [] }

/-- `Dequeue()` (R122): the front buffer, or `none` for `ABSENT`. -/
def dequeue (s : State) : Option Buffer × State :=
  match s.queue with
  | [] => (none, s)
  | b :: rest => (some b, { s with queue := rest })

/-- `SEQ_PHASE <- FETCH`: a task is scheduled (R204). -/
def scheduleTask (s : State) : State := { s with seqPhase := .fetch }

/-- `Start()` (R130). -/
def start (s : State) : State :=
  if s.seqPhase = .off then scheduleTask s else { s with startPend := true }

/-- PLAY and QUEUE (R131, R132), which share one rule: enqueue, and start a session if Idle. -/
def enqueueAndStart (b : Buffer) (s : State) : Result :=
  if queueFull s then raiseFault .queueOverflow s
  else if s.playing then finish (appendBuffer b s)
  else finish (start { appendBuffer b s with playing := true })

/-- `Emit(x)` (R164): write the scaled sample and request one sample period, with the configuration of
this moment. -/
def emit (x : Nat) (s : State) : State :=
  timerWait (samplePeriod s.rate) (sinkWrite s.pin (intensity x s.vol) s)

/-- Decode one code through the shared decoder state and emit its sample (R163, R167). -/
def playCode (n : Nibble) (s : State) : State :=
  emit (decodeNibble s.cfg n s.dec).2 (setDecoder (decodeNibble s.cfg n s.dec).1 s)

/-- `Exit()` (R169): the position is dropped, and a start that was deferred is scheduled if the engine
is Playing. -/
def exitTask (s : State) : State :=
  { s with
    seqPhase := if s.startPend && (s.playing && !s.paused) then .fetch else .off
    curBuf := []
    byteIdx := 0
    abortReq := false
    startPend := false }

end Sys2Proof.Machine
end

