-- ==== Sys2Proof/Machine/Control.lean ====
section
/-! DEFINITION. The control and configuration commands, R131 to R138. -/

namespace Sys2Proof.Machine

/-- PLAY (R131). -/
def execPlay (buf : Buffer) (s : State) : Result := enqueueAndStart buf s

/-- QUEUE (R132). -/
def execQueue (buf : Buffer) (s : State) : Result := enqueueAndStart buf s

/-- STOP (R133): unconditional. The zero is written unscaled to the current pin; an active task is not
ended here but asked to end at its next check. -/
def execStop (s : State) : Result :=
  finish (setDecoder ⟨0, 0⟩ (sinkWrite s.pin 0 (clearQueue
    { s with
      playing := false
      paused := false
      abortReq := if s.active then true else s.abortReq
      startPend := false })))

/-- PAUSE (R134): only effective when Playing. -/
def execPause (s : State) : Result :=
  if s.playing && !s.paused then finish { s with paused := true } else finish s

/-- RESUME (R135): only effective when Paused. A task is scheduled only if none is active. -/
def execResume (s : State) : Result :=
  if s.playing && s.paused then
    if s.seqPhase = .off then finish (scheduleTask { s with paused := false })
    else finish { s with paused := false }
  else finish s

/-- SET_PIN (R136). -/
def execSetPin (p : PinId) (s : State) : Result := finish { s with pin := p }

/-- SET_RATE (R137): it refuses a rate that is not positive with BAD_RATE. -/
def execSetRate (r : Int) (s : State) : Result :=
  if r ≤ 0 then raiseFault .badRate s else finish { s with rate := r.toNat }

/-- SET_VOL (R138): the value is clamped where it is stored. -/
def execSetVol (v : Int) (s : State) : Result := finish { s with vol := (clamp v 0 volMax).toNat }

end Sys2Proof.Machine
end

