-- ==== Sys2Proof/Machine/Decoder.lean ====
section
/-! DEFINITION. The decode commands, DECODE_NIB (R110) and DECODE_BUF (R111). -/

namespace Sys2Proof.Machine

/-- DECODE_NIB (R110): it faults while a task is active. -/
def execDecodeNib (n : Nibble) (s : State) : Result :=
  if s.active then raiseFault .decodeWhileActive s
  else answer (.sample (decodeNibble s.cfg n s.dec).2) (setDecoder (decodeNibble s.cfg n s.dec).1 s)

/-- DECODE_BUF (R111): it faults while a task is active. The samples are not scaled or written. -/
def execDecodeBuf (buf : Buffer) (s : State) : Result :=
  if s.active then raiseFault .decodeWhileActive s
  else answer (.samples (decodeBytes s.cfg buf s.dec).2) (setDecoder (decodeBytes s.cfg buf s.dec).1 s)

end Sys2Proof.Machine
end

