-- ==== Sys2Proof/Machine/Queue.lean ====
section
/-! DEFINITION. The queue command, CLEAR_QUEUE (R124). -/

namespace Sys2Proof.Machine

/-- CLEAR_QUEUE (R124): the buffer being played is not in the queue and plays on. -/
def execClearQueue (s : State) : Result := finish (clearQueue s)

end Sys2Proof.Machine
end

