-- ==== Sys2Proof/Machine/Dispatch.lean ====
section
/-! DEFINITION. The meaning of every command: one arm per constructor of `Instr`. -/

namespace Sys2Proof.Machine

def exec (i : Instr) (s : State) : Host.Outcome State Fault Refusal :=
  match i with
  | .decodeBuf buf => Sys2Proof.Machine.execDecodeBuf buf s
  | .play buf => Sys2Proof.Machine.execPlay buf s
  | .queue buf => Sys2Proof.Machine.execQueue buf s
  | .stop => Sys2Proof.Machine.execStop s
  | .pause => Sys2Proof.Machine.execPause s
  | .resume => Sys2Proof.Machine.execResume s
  | .setPin p => Sys2Proof.Machine.execSetPin p s
  | .setRate r => Sys2Proof.Machine.execSetRate r s
  | .setVol v => Sys2Proof.Machine.execSetVol v s
  | .clearQueue => Sys2Proof.Machine.execClearQueue s
  | .decodeNib n => Sys2Proof.Machine.execDecodeNib n s

end Sys2Proof.Machine
end

