-- ==== Sys2Proof/Machine/Sequencer.lean ====
section
/-! DEFINITION. The playback sequencer's three steps and their procedures (R160 to R169). -/

namespace Sys2Proof.Machine

/-- `Check()` (R163), given what the fetch procedure does: at the end of the buffer continue with the
next one or exit; before a byte play its low nibble or exit. -/
def checkWith (fetch : State → Result) (s : State) : Result :=
  if s.byteIdx = s.curBuf.length then
    if s.continues then fetch s else .next (exitTask s)
  else if s.continues then
    match s.curBuf[s.byteIdx]? with
    | some b => .next { playCode (lowNibble b) s with seqPhase := .waitLo }
    | none => .fault .positionOutsideBuffer
  else .next (exitTask s)

/-- `FetchBody()` (R162) on the given queue. Each pass takes one buffer off the queue, so the loop of
R170 over empty buffers is a recursion on the queue. -/
def fetchLoop : List Buffer → State → Result
  | [], s =>
    if s.abortReq then .next (exitTask s)
    else if s.playing && !s.paused then .next (exitTask { s with playing := false })
    else .next (exitTask s)
  | b :: rest, s =>
    if s.abortReq then .next (exitTask s)
    else checkWith (fetchLoop rest) { s with queue := rest, curBuf := b, byteIdx := 0 }

/-- `FetchBody()` (R162). -/
def fetchBody (s : State) : Result := fetchLoop s.queue s

/-- `Check()` (R163). -/
def check (s : State) : Result := checkWith fetchBody s

/-- SEQ_FETCH (R162): the scheduled task starts. -/
def seqFetch (s : State) : Result := fetchBody s

/-- SEQ_LO_DONE (R167): the high nibble of the same byte, with no check. -/
def seqLoDone (s : State) : Result :=
  match s.curBuf[s.byteIdx]? with
  | some b => .next { playCode (highNibble b) s with seqPhase := .waitHi }
  | none => .fault .positionOutsideBuffer

/-- SEQ_HI_DONE (R168): on to the next byte. -/
def seqHiDone (s : State) : Result := check { s with byteIdx := s.byteIdx + 1 }

/-- A turn of the sequencer (R160). With `SEQ_PHASE = OFF` it has no step, and nothing changes.
DESIGN CHOICE (log entry 6, safe). -/
def seqTurn (s : State) : Result :=
  match s.seqPhase with
  | .off => .next s
  | .fetch => seqFetch s
  | .waitLo => seqLoDone s
  | .waitHi => seqHiDone s

end Sys2Proof.Machine
end

