-- ==== Sys2Proof/Machine/Port.lean ====
section
/-! DEFINITION. What the machine does with one input: a command at the port (R201), a turn of the
sequencer (R160), or a reset (R220). -/

namespace Sys2Proof.Machine

/-- The command port decodes the command and runs it, or raises ILLEGAL_COMMAND (R77, R192). -/
def runCommand (c : Command) (s : State) : Result :=
  match decode c with
  | .ok i => exec i s
  | .error _ => raiseFault .illegalCommand s

/-- Reset (R220). DEDUCED (log entry 11, safe): the parameters and the outside world's further inputs
are not the block's state, so reset leaves them. -/
def resetBlock (s : State) : State := { State.resetWith s.cfg with inputs := s.inputs }

/-- One input, already taken off `inputs`. -/
def runInput (i : Input) (s : State) : Result :=
  match i with
  | .command c => runCommand c s
  | .sequencer => seqTurn s
  | .reset => .next (resetBlock s)

/-- The state in which the given command is the next input. -/
def offerCommand (c : Command) (s : State) : State := { s with inputs := .command c :: s.inputs }

end Sys2Proof.Machine
end

