-- ==== Sys2Proof/Machine/Step.lean ====
section
/-! DEFINITION. One atomic step of the machine (R58, R59), and how a table word comes to be its next
command. -/

namespace Sys2Proof.Machine

/-- One step: the next input of the outside world. When the outside world brings nothing more, the timer
and the task runner still do their duty (R202, R207 (d)), so an active sequencer takes its turn; an
inactive block does nothing (R206). DESIGN CHOICE (log entry 5). -/
def step (s : State) : Host.Outcome State Fault Refusal :=
  match s.inputs with
  | [] => seqTurn s
  | i :: rest => runInput i { s with inputs := rest }

/-- The state in which the command of a table word is the machine's next input. -/
def State.withFetchWord (s : State) (nbits w : Nat) : State :=
  offerCommand (commandOfTableWord nbits w) s

end Sys2Proof.Machine
end

