-- ==== Sys2Proof/Safety.lean ====
section
/-! DEFINITION. The terms in which claims are stated: the invariant of reachable states (R20, R23, R28)
and a run without faults (R191). -/

namespace Sys2Proof.Machine

/-- The invariant of every reachable state. -/
structure State.Inv (s : State) : Prop where
  /-- The parameters are values the spec allows (R6, R91, R93). -/
  cfgOk : s.cfg.wellFormed = true
  /-- R23. `SIDX` is in 0..88 by its type. -/
  predRange : -128 ≤ s.dec.pred ∧ s.dec.pred ≤ 127
  /-- R30. -/
  rateRange : 1 ≤ s.rate ∧ s.rate ≤ 2147483647
  /-- R31. -/
  volRange : s.vol ≤ 255
  /-- R20: the queue is at most `QUEUE_CAP` long when bounded. -/
  queueBound : ∀ cap, s.cfg.queueCap = some cap → s.queue.length ≤ cap
  /-- R20: `BYTE_IDX` is in 0..len(`CUR_BUF`). -/
  byteIdxRange : s.byteIdx ≤ s.curBuf.length
  /-- R28 (a). -/
  pausedIsPlaying : s.paused = true → s.playing = true
  /-- R28 (b). -/
  playingIsActive : s.playing = true → s.paused = false → s.seqPhase ≠ .off
  /-- R28 (c). -/
  offClearsLatches : s.seqPhase = .off → s.abortReq = false ∧ s.startPend = false
  /-- R28 (d). -/
  pendingIsAborted : s.startPend = true → s.abortReq = true
  /-- R28 (e). -/
  waitingInBuffer : s.seqPhase = .waitLo ∨ s.seqPhase = .waitHi → s.byteIdx < s.curBuf.length
  /-- DEDUCED (log entry 15, safe): a session begun while an aborted task drains has its start pending;
  without this clause R28 (b) is not kept by a step. -/
  abortedPlayingIsPending : s.abortReq = true → s.playing = true → s.startPend = true
  /-- DEDUCED (log entry 15, safe): a task that is active while Idle has been aborted; without this
  clause R28 (d) is not kept by a step. -/
  idleTaskIsAborted : s.playing = false → s.seqPhase ≠ .off → s.abortReq = true

/-- A state of a run that no fault has touched: the only runs whose claims say something about the
block (R191, D18). -/
def State.Clean (s : State) : Prop := s.faultReg = 0#4

end Sys2Proof.Machine
end

