-- ==== Sys2Proof/Certificates/Slice0/Obligations.lean ====
section
/-! DEFINITION. The statements for the provers. Expected values are written from the rules of spec/,
in plain arithmetic rather than in the model's own helpers. -/

open Sys2Proof Sys2Proof.Machine

/-! ### Tables and encoding -/

/-- R91, R93: the default tables meet every constraint the spec puts on them. That the defaults are the
IMA tables is PRESUMED (log entry 1); the checksum is R90's. -/
def Obligations.DefaultTablesMeetConstraints : Prop :=
  (defaultStepTable.toList.length = 89 ∧
    (∀ x ∈ defaultStepTable.toList, 7 ≤ x ∧ x ≤ 32767) ∧
    defaultStepTable.toList.Pairwise (· < ·) ∧
    defaultStepTable.toList[0]? = some 7 ∧
    defaultStepTable.toList[88]? = some 32767 ∧
    defaultStepTable.toList.sum = 360393) ∧
  (defaultIndexTable.toList.length = 16 ∧
    (∀ x ∈ defaultIndexTable.toList, x ∈ [-1, 2, 4, 6, 8]) ∧
    (∀ x ∈ [-1, 2, 4, 6, 8], x ∈ defaultIndexTable.toList) ∧
    defaultIndexTable.toList[15]? = some 8)

/-- R77, R78, R80: no operand value of a well-formed instruction is lost in its encoding. -/
def Obligations.DecodeOfEncodeIsInstruction : Prop :=
  ∀ i : Instr, i.wellFormed = true → decode (encode i) = .ok i

/-- R77, R81: what the decoder gives is well formed, is encoded by that very byte, and decodes back
from its own encoding. -/
def Obligations.EncodeOfDecodeIsCommandByte : Prop :=
  ∀ (c : Command) (i : Instr), decode c = .ok i →
    i.wellFormed = true ∧ (encode i).byte = c.byte ∧ decode (encode i) = .ok i

/-- R78: the opcode map, row by row, with each opcode's operand. That it holds whatever stands on the
lanes an opcode does not name is the model's choice (log entry 7). -/
def Obligations.OpcodeMapIsAsListed : Prop :=
  ∀ (b : Buffer) (v : BitVec 32) (p : PinId),
    decode ⟨0x01#8, b, v, p⟩ = .ok (.decodeBuf b) ∧
    decode ⟨0x02#8, b, v, p⟩ = .ok (.play b) ∧
    decode ⟨0x03#8, b, v, p⟩ = .ok (.queue b) ∧
    decode ⟨0x04#8, b, v, p⟩ = .ok .stop ∧
    decode ⟨0x05#8, b, v, p⟩ = .ok .pause ∧
    decode ⟨0x06#8, b, v, p⟩ = .ok .resume ∧
    decode ⟨0x07#8, b, v, p⟩ = .ok (.setPin p) ∧
    decode ⟨0x08#8, b, v, p⟩ = .ok (.setRate v.toInt) ∧
    decode ⟨0x09#8, b, v, p⟩ = .ok (.setVol v.toInt) ∧
    decode ⟨0x0A#8, b, v, p⟩ = .ok .clearQueue ∧
    (∀ n : BitVec 4, decode ⟨n ++ 0xB#4, b, v, p⟩ = .ok (.decodeNib n)) ∧
    (∀ (n op : BitVec 4), op ∈ [0x0#4, 0xC#4, 0xD#4, 0xE#4, 0xF#4] →
      decode ⟨n ++ op, b, v, p⟩ = .error .reservedOpcode)

/-- R77: the checks in their order over every command, and the count of the bytes that are commands.
That the operand lanes do not matter to them is the model's choice (log entry 7). -/
def Obligations.DecoderIsTotalOverBytes : Prop :=
  (∀ c : Command,
    (decode c = .error .reservedOpcode ↔ c.byte.toNat % 16 = 0 ∨ 12 ≤ c.byte.toNat % 16) ∧
    (decode c = .error .nonzeroArg4 ↔
      1 ≤ c.byte.toNat % 16 ∧ c.byte.toNat % 16 ≤ 10 ∧ c.byte.toNat / 16 ≠ 0)) ∧
  (∀ (b : Buffer) (v : BitVec 32) (p : PinId),
    (List.range 256).countP (fun k => (decode ⟨BitVec.ofNat 8 k, b, v, p⟩).isOk) = 26)

/-- T-E1 (R78): command bytes of 95_test_vectors.md as table words. -/
def Obligations.SpecWordsDecode : Prop :=
  decodeTableWord 8 0x01 = some (.decodeBuf []) ∧ decodeTableWord 8 0x02 = some (.play []) ∧
  decodeTableWord 8 0x04 = some .stop ∧ decodeTableWord 8 0x0A = some .clearQueue ∧
  decodeTableWord 8 0x1B = some (.decodeNib 0x1#4) ∧ decodeTableWord 8 0xFB = some (.decodeNib 0xF#4) ∧
  decodeTableWord 8 0x00 = none ∧ decodeTableWord 8 0x14 = none ∧ decodeTableWord 8 0xF2 = none ∧
  decodeTableWord 8 0xFF = none

/-! ### One step of the machine -/

/-- R58, R201: a command at the port is decoded and run as one step. The input list is the model's form
of the free order of R59 (log entry 5). -/
def Obligations.StepRunsDecodedCommand : Prop :=
  ∀ (s : State) (c : Command) (rest : List Input) (i : Instr),
    s.inputs = .command c :: rest → decode c = .ok i →
      step s = exec i { s with inputs := rest }

/-- R79, R192: a reserved opcode, or a nonzero `ARG4` off opcode 0xB, sets `FAULT` bit 0 and does
nothing else. -/
def Obligations.ReservedByteOnlySetsFaultBitZero : Prop :=
  ∀ (s : State) (c : Command) (rest : List Input),
    (c.byte.toNat % 16 = 0 ∨ 12 ≤ c.byte.toNat % 16 ∨
      (c.byte.toNat % 16 ≠ 11 ∧ c.byte.toNat / 16 ≠ 0)) →
    step { s with inputs := .command c :: rest } =
      .next { s with inputs := rest, faultReg := s.faultReg ||| 1#4, response := none }

/-- R160: a turn of the sequencer, offered or (log entry 5) taken when the outside world brings nothing
more, is the step of its phase. With `SEQ_PHASE = OFF` there is no step and nothing changes (log
entry 6). -/
def Obligations.SequencerTurnIsStepOfPhase : Prop :=
  ∀ (s : State) (rest : List Input), (s.inputs = [] ∧ rest = [] ∨ s.inputs = .sequencer :: rest) →
    (s.seqPhase = .off → step s = .next { s with inputs := rest }) ∧
    (s.seqPhase = .fetch → step s = seqFetch { s with inputs := rest }) ∧
    (s.seqPhase = .waitLo → step s = seqLoDone { s with inputs := rest }) ∧
    (s.seqPhase = .waitHi → step s = seqHiDone { s with inputs := rest })

/-- R220: reset sets every element to its reset value, from any state, in the midst of a wait or not; it
writes nothing to the sink, and the tables are not affected. -/
def Obligations.ResetSetsEveryElement : Prop :=
  ∀ (s : State) (rest : List Input),
    ∃ t : State, step { s with inputs := .reset :: rest } = .next t ∧
      t.dec = ⟨0, 0⟩ ∧ t.playing = false ∧ t.paused = false ∧
      t.pin = s.cfg.resetPin ∧ t.rate = s.cfg.resetRate ∧ t.vol = s.cfg.resetVolume ∧
      t.queue = [] ∧ t.seqPhase = .off ∧ t.curBuf = [] ∧ t.byteIdx = 0 ∧
      t.abortReq = false ∧ t.startPend = false ∧ t.faultReg = 0#4 ∧ t.trace = [] ∧
      t.cfg.stepTable = s.cfg.stepTable ∧ t.cfg.indexTable = s.cfg.indexTable

/-- What reset does to the model's own fields: the parameters and the further inputs stay (log entry 11)
and no response is held (log entry 8). -/
def Obligations.ResetKeepsParametersAndInputs : Prop :=
  ∀ (s : State) (rest : List Input),
    ∃ t : State, step { s with inputs := .reset :: rest } = .next t ∧
      t.cfg = s.cfg ∧ t.inputs = rest ∧ t.response = none

/-- R221, R206: after reset the engine is Idle with no task, no fault and an empty queue, and the block
does nothing until a command comes. -/
def Obligations.AfterResetIdleUntilCommand : Prop :=
  ∀ cfg : Config,
    (State.resetWith cfg).engine = .idle ∧ (State.resetWith cfg).seqPhase = .off ∧
    (State.resetWith cfg).faultReg = 0#4 ∧ (State.resetWith cfg).queue = [] ∧
    step (State.resetWith cfg) = .next (State.resetWith cfg)

/-! ### Decode commands -/

/-- R100, R110: DECODE_NIB's sample and new decoder state, written out in plain arithmetic; everything
else is unchanged. -/
def Obligations.DecodeNibResult : Prop :=
  ∀ (n : Nibble) (s : State), s.seqPhase = .off →
    ∃ (pred : Int) (sidx : Fin 89),
      (∀ step mag : Int, step = (s.cfg.stepTable[s.dec.sidx] : Nat) →
        mag = step / 8 + (if n.toNat % 2 = 1 then step / 4 else 0) +
          (if n.toNat / 2 % 2 = 1 then step / 2 else 0) +
          (if n.toNat / 4 % 2 = 1 then step else 0) →
        pred = max (-128) (min 127 (s.dec.pred + (if 8 ≤ n.toNat then -mag else mag)))) ∧
      (sidx.val : Int) = max 0 (min 88 ((s.dec.sidx.val : Int) + s.cfg.indexTable[n.toFin])) ∧
      exec (.decodeNib n) s = .next
        { s with dec := ⟨pred, sidx⟩, response := some (.sample (pred + 128).toNat) }

/-- R100's example and KAAS's two worked nibbles (95_test_vectors.md L1-1, L1-2), for every pair of
tables the constraints of R91 and R93 allow. -/
def Obligations.WorkedNibbleExamples : Prop :=
  ∀ s : State, s.cfg.wellFormed = true → s.seqPhase = .off →
    (s.dec = ⟨0, 0⟩ → exec (.decodeNib 0xF#4) s =
      .next { s with dec := ⟨-11, 8⟩, response := some (.sample 117) }) ∧
    (∀ p : Int, -128 ≤ p → p ≤ 127 → s.dec = ⟨p, 0⟩ → ∃ k : Fin 89,
      exec (.decodeNib 0x0#4) s =
        .next { s with dec := ⟨p, k⟩, response := some (.sample (p + 128).toNat) })

/-- R111: DECODE_BUF completes on every buffer with a response of two samples a byte, each 0..255, and
writes nothing but the decoder state. -/
def Obligations.DecodeBufAnswersTwoSamplesPerByte : Prop :=
  ∀ (buf : Buffer) (s : State), s.seqPhase = .off →
    ∃ (d : DecoderState) (xs : List Nat),
      exec (.decodeBuf buf) s = .next { s with dec := d, response := some (.samples xs) } ∧
      xs.length = 2 * buf.length ∧ (∀ x ∈ xs, x ≤ 255) ∧
      (buf = [] → d = s.dec)

/-- R111, R52, R53: DECODE_BUF decodes the first byte's low nibble and then its high nibble as DECODE_NIB
does, and then the rest of the buffer. -/
def Obligations.DecodeBufIsNibblesInOrder : Prop :=
  ∀ (b : Byte) (rest : Buffer) (s : State), s.seqPhase = .off →
    ∃ (t u v : State) (x y : Nat) (zs : List Nat),
      exec (.decodeNib (BitVec.ofNat 4 (b.toNat % 16))) s = .next t ∧
      t.response = some (.sample x) ∧
      exec (.decodeNib (BitVec.ofNat 4 (b.toNat / 16))) t = .next u ∧
      u.response = some (.sample y) ∧
      exec (.decodeBuf rest) u = .next v ∧ v.response = some (.samples zs) ∧
      exec (.decodeBuf (b :: rest)) s =
        .next { v with response := some (.samples (x :: y :: zs)) }

/-- R109: decoding A and then B through one continuous decoder state is decoding their concatenation. -/
def Obligations.DecodingIsStreamContinuous : Prop :=
  ∀ (a b : Buffer) (s : State), s.seqPhase = .off →
    ∃ (t u : State) (xs ys : List Nat),
      exec (.decodeBuf a) s = .next t ∧ t.response = some (.samples xs) ∧
      exec (.decodeBuf b) t = .next u ∧ u.response = some (.samples ys) ∧
      exec (.decodeBuf (a ++ b)) s = .next { u with response := some (.samples (xs ++ ys)) }

/-- R109: the samples and the end state are a function of the start decoder state and the codes alone,
whatever the rest of the two machines holds. -/
def Obligations.DecodingDependsOnDecoderStateAlone : Prop :=
  ∀ (buf : Buffer) (s t : State), s.seqPhase = .off → t.seqPhase = .off →
    s.cfg.stepTable = t.cfg.stepTable → s.cfg.indexTable = t.cfg.indexTable → s.dec = t.dec →
    ∃ s' t' : State, exec (.decodeBuf buf) s = .next s' ∧ exec (.decodeBuf buf) t = .next t' ∧
      s'.dec = t'.dec ∧ s'.response = t'.response

/-- R104: with the default step table, a code with magnitude bit 2 saturates the predictor from any
legal start once `SIDX >= 36`. It rests on table entries that are PRESUMED (log entry 1). -/
def Obligations.LargeStepSaturatesPredictor : Prop :=
  ∀ (n : Nibble) (s : State), s.seqPhase = .off → s.cfg.stepTable = defaultStepTable →
    -128 ≤ s.dec.pred → s.dec.pred ≤ 127 → 36 ≤ s.dec.sidx.val → n.toNat / 4 % 2 = 1 →
    ∃ t : State, exec (.decodeNib n) s = .next t ∧
      t.dec.pred = (if 8 ≤ n.toNat then -128 else 127) ∧
      t.response = some (.sample (if 8 ≤ n.toNat then 0 else 255))

/-- R194: a decode command while a task is active sets `FAULT` bit 2, gives no response and changes
nothing else. -/
def Obligations.DecodeWhileActiveOnlySetsFaultBitTwo : Prop :=
  ∀ (n : Nibble) (buf : Buffer) (s : State), s.seqPhase ≠ .off →
    exec (.decodeNib n) s = .next { s with faultReg := s.faultReg ||| 4#4, response := none } ∧
    exec (.decodeBuf buf) s = .next { s with faultReg := s.faultReg ||| 4#4, response := none }

/-! ### Queue and control commands -/

/-- R131, R132, R130: PLAY and QUEUE on a queue that is not full, in every engine state, with a task
active or not. -/
def Obligations.PlayAndQueueResult : Prop :=
  ∀ (buf : Buffer) (s : State) (i : Instr), i = .play buf ∨ i = .queue buf →
    (∀ cap, s.cfg.queueCap = some cap → s.queue.length < cap) →
    (s.playing = true →
      exec i s = .next { s with queue := s.queue ++ [buf], response := none }) ∧
    (s.playing = false → s.seqPhase = .off →
      exec i s = .next { s with queue := s.queue ++ [buf], playing := true, seqPhase := .fetch,
                                response := none }) ∧
    (s.playing = false → s.seqPhase ≠ .off →
      exec i s = .next { s with queue := s.queue ++ [buf], playing := true, startPend := true,
                                response := none })

/-- R195: PLAY or QUEUE on a full bounded queue sets `FAULT` bit 3 and does nothing else; an unbounded
queue never raises it. -/
def Obligations.FullQueueOnlySetsFaultBitThree : Prop :=
  ∀ (buf : Buffer) (s : State) (i : Instr), i = .play buf ∨ i = .queue buf →
    (∀ cap, s.cfg.queueCap = some cap → cap ≤ s.queue.length →
      exec i s = .next { s with faultReg := s.faultReg ||| 8#4, response := none }) ∧
    (s.cfg.queueCap = none → ∃ t, exec i s = .next t ∧ t.faultReg = s.faultReg)

/-- R133: STOP in every state. -/
def Obligations.StopResult : Prop :=
  ∀ s : State, exec .stop s = .next
    { s with
      playing := false
      paused := false
      queue := []
      trace := s.trace ++ [.write s.pin 0]
      dec := ⟨0, 0⟩
      abortReq := s.abortReq || decide (s.seqPhase ≠ .off)
      startPend := false
      response := none }

/-- R140: after STOP a decode behaves as from a freshly reset block with the same parameters. -/
def Obligations.DecodeAfterStopIsFresh : Prop :=
  ∀ (buf : Buffer) (s : State), s.seqPhase = .off →
    ∃ t u v : State, exec .stop s = .next t ∧ exec (.decodeBuf buf) t = .next u ∧
      exec (.decodeBuf buf) (State.resetWith s.cfg) = .next v ∧
      u.dec = v.dec ∧ u.response = v.response

/-- R134: PAUSE is effective only when Playing. -/
def Obligations.PauseResult : Prop :=
  ∀ s : State,
    (s.playing = true → s.paused = false →
      exec .pause s = .next { s with paused := true, response := none }) ∧
    (s.playing = false ∨ s.paused = true → exec .pause s = .next { s with response := none })

/-- R135: RESUME is effective only when Paused, and starts a task only if none is active. -/
def Obligations.ResumeResult : Prop :=
  ∀ s : State,
    (s.playing = true → s.paused = true → s.seqPhase = .off →
      exec .resume s = .next { s with paused := false, seqPhase := .fetch, response := none }) ∧
    (s.playing = true → s.paused = true → s.seqPhase ≠ .off →
      exec .resume s = .next { s with paused := false, response := none }) ∧
    (s.playing = false ∨ s.paused = false → exec .resume s = .next { s with response := none })

/-- R135: PAUSE and then RESUME with nothing between leaves the whole machine as it was. -/
def Obligations.PauseThenResumeIsNoChange : Prop :=
  ∀ s : State, s.Inv → s.engine = .playing →
    ∃ t : State, exec .pause s = .next t ∧ t.engine = .paused ∧
      exec .resume t = .next { s with response := none }

/-- R136. -/
def Obligations.SetPinResult : Prop :=
  ∀ (p : PinId) (s : State), exec (.setPin p) s = .next { s with pin := p, response := none }

/-- R137: SET_RATE with a positive operand. -/
def Obligations.SetRateResult : Prop :=
  ∀ (r : Int) (s : State), 0 < r →
    ∃ k : Nat, (k : Int) = r ∧ exec (.setRate r) s = .next { s with rate := k, response := none }

/-- R193: SET_RATE with an operand <= 0 sets `FAULT` bit 1 and does nothing else. -/
def Obligations.BadRateOnlySetsFaultBitOne : Prop :=
  ∀ (r : Int) (s : State), r ≤ 0 →
    exec (.setRate r) s = .next { s with faultReg := s.faultReg ||| 2#4, response := none }

/-- R138: SET_VOL clamps silently to 0..255. -/
def Obligations.SetVolResult : Prop :=
  ∀ (v : Int) (s : State), ∃ k : Nat,
    (k : Int) = (if v < 0 then 0 else if 255 < v then 255 else v) ∧
    exec (.setVol v) s = .next { s with vol := k, response := none }

/-- R124: CLEAR_QUEUE empties the queue and touches nothing else, the buffer being played included. -/
def Obligations.ClearQueueResult : Prop :=
  ∀ s : State, exec .clearQueue s = .next { s with queue := [], response := none }

/-! ### The sequencer -/

/-- R164, R165: Emit writes the scaled sample to the current pin and requests one sample period; what
the scaling gives at each volume the rule names. -/
def Obligations.EmitScalesByVolume : Prop :=
  (∀ (x : Nat) (s : State), emit x s =
    { s with trace := s.trace ++ [.write s.pin (x * s.vol / 256), .wait (1000000 / s.rate)] }) ∧
  (∀ x vol : Nat, x ≤ 255 → vol ≤ 255 → intensity x vol ≤ 254) ∧
  (∀ x : Nat, intensity x 0 = 0) ∧
  (∀ x : Nat, 1 ≤ x → x ≤ 255 → intensity x 255 = x - 1) ∧
  intensity 0 255 = 0 ∧
  (∀ x : Nat, intensity x 128 = x / 2)

/-- R162, R163: SEQ_FETCH with a playing engine and a nonempty front buffer takes the buffer, plays the
low nibble of its first byte as DECODE_NIB would decode it, and waits. -/
def Obligations.SeqFetchPlaysFirstLowNibble : Prop :=
  ∀ (s : State) (rest : List Input) (b : Byte) (bs : Buffer) (q : List Buffer),
    s.seqPhase = .fetch → s.playing = true → s.paused = false → s.abortReq = false →
    s.queue = (b :: bs) :: q →
    ∃ (t : State) (x : Nat),
      exec (.decodeNib (BitVec.ofNat 4 (b.toNat % 16))) { s with seqPhase := .off } = .next t ∧
      t.response = some (.sample x) ∧
      step { s with inputs := .sequencer :: rest } = .next
        { s with
          inputs := rest, dec := t.dec, queue := q, curBuf := b :: bs, byteIdx := 0
          seqPhase := .waitLo
          trace := s.trace ++ [.write s.pin (x * s.vol / 256), .wait (1000000 / s.rate)] }

/-- R162: SEQ_FETCH on an empty queue ends the task with no write; a Playing engine goes Idle, a Paused
one stays Paused. -/
def Obligations.SeqFetchOnEmptyQueueEndsTask : Prop :=
  ∀ (s : State) (rest : List Input),
    s.seqPhase = .fetch → s.abortReq = false → s.queue = [] →
    step { s with inputs := .sequencer :: rest } = .next
      { s with
        inputs := rest, playing := s.playing && s.paused, seqPhase := .off, curBuf := [], byteIdx := 0
        abortReq := false, startPend := false }

/-- R162, R169: SEQ_FETCH of a task that STOP aborted exits before it dequeues, and schedules the
session that was deferred, if one was and it is still Playing. -/
def Obligations.SeqFetchOfAbortedTaskExits : Prop :=
  ∀ (s : State) (rest : List Input), s.seqPhase = .fetch → s.abortReq = true →
    step { s with inputs := .sequencer :: rest } = .next
      { s with
        inputs := rest
        seqPhase := if s.startPend = true ∧ s.playing = true ∧ s.paused = false then .fetch else .off
        curBuf := [], byteIdx := 0, abortReq := false, startPend := false }

/-- R170: an empty buffer at the front of the queue is passed over within the same step. -/
def Obligations.SeqFetchPassesOverEmptyBuffers : Prop :=
  ∀ (s : State) (rest : List Input) (k : Nat) (q : List Buffer),
    s.seqPhase = .fetch → s.playing = true → s.paused = false → s.abortReq = false →
    step { s with queue := List.replicate k [] ++ q, inputs := .sequencer :: rest } =
      step { s with queue := q, inputs := .sequencer :: rest }

/-- R176: a PAUSE before the task has run loses the whole front buffer with no write, and a later RESUME
starts at the next one. -/
def Obligations.PauseBeforeFetchDropsFrontBuffer : Prop :=
  ∀ (s : State) (rest : List Input) (b : Buffer) (q : List Buffer),
    s.seqPhase = .fetch → s.playing = true → s.paused = false → s.abortReq = false →
    s.queue = b :: q →
    ∃ t u : State, exec .pause s = .next t ∧
      step { t with inputs := .sequencer :: rest } = .next u ∧
      u = { s with
            inputs := rest, paused := true, queue := q, seqPhase := .off, curBuf := [], byteIdx := 0
            startPend := false, response := none } ∧
      exec .resume u = .next { u with paused := false, seqPhase := .fetch }

/-- R167: SEQ_LO_DONE plays the high nibble of the same byte whatever the flags and latches say. -/
def Obligations.SeqLoDonePlaysHighNibble : Prop :=
  ∀ (s : State) (rest : List Input) (b : Byte),
    s.seqPhase = .waitLo → s.curBuf[s.byteIdx]? = some b →
    ∃ (t : State) (x : Nat),
      exec (.decodeNib (BitVec.ofNat 4 (b.toNat / 16))) { s with seqPhase := .off } = .next t ∧
      t.response = some (.sample x) ∧
      step { s with inputs := .sequencer :: rest } = .next
        { s with
          inputs := rest, dec := t.dec, seqPhase := .waitHi
          trace := s.trace ++ [.write s.pin (x * s.vol / 256), .wait (1000000 / s.rate)] }

/-- R168, R163: SEQ_HI_DONE inside a buffer, while the continuation condition holds, plays the low nibble
of the next byte. -/
def Obligations.SeqHiDonePlaysNextByte : Prop :=
  ∀ (s : State) (rest : List Input) (b : Byte),
    s.seqPhase = .waitHi → s.playing = true → s.paused = false → s.abortReq = false →
    s.curBuf[s.byteIdx + 1]? = some b →
    ∃ (t : State) (x : Nat),
      exec (.decodeNib (BitVec.ofNat 4 (b.toNat % 16))) { s with seqPhase := .off } = .next t ∧
      t.response = some (.sample x) ∧
      step { s with inputs := .sequencer :: rest } = .next
        { s with
          inputs := rest, dec := t.dec, byteIdx := s.byteIdx + 1, seqPhase := .waitLo
          trace := s.trace ++ [.write s.pin (x * s.vol / 256), .wait (1000000 / s.rate)] }

/-- R170, R171: at the end of a buffer, while the continuation condition holds, SEQ_HI_DONE does in the
same step what SEQ_FETCH does; with nothing queued it ends the session and writes nothing. -/
def Obligations.SeqHiDoneContinuesWithNextBuffer : Prop :=
  ∀ (s : State) (rest : List Input),
    s.seqPhase = .waitHi → s.playing = true → s.paused = false → s.abortReq = false →
    s.byteIdx + 1 = s.curBuf.length →
    step { s with inputs := .sequencer :: rest } =
      step { s with seqPhase := .fetch, inputs := .sequencer :: rest } ∧
    (s.queue = [] → step { s with inputs := .sequencer :: rest } = .next
      { s with
        inputs := rest, playing := false, seqPhase := .off, curBuf := [], byteIdx := 0
        abortReq := false, startPend := false })

/-- R163, R168, R169: when the continuation condition fails, SEQ_HI_DONE ends the task with no write and
without dequeuing, and keeps the decoder state. -/
def Obligations.SeqHiDoneExitsWhenConditionFails : Prop :=
  ∀ (s : State) (rest : List Input), s.seqPhase = .waitHi →
    s.playing = false ∨ s.paused = true ∨ s.abortReq = true →
    step { s with inputs := .sequencer :: rest } = .next
      { s with
        inputs := rest
        seqPhase := if s.startPend = true ∧ s.playing = true ∧ s.paused = false then .fetch else .off
        curBuf := [], byteIdx := 0, abortReq := false, startPend := false }

/-- R172: after a PAUSE or STOP in `WAIT_LO` exactly one further sample is written before the task
ends. -/
def Obligations.CancelledTaskWritesOneMoreSample : Prop :=
  ∀ (s : State) (rest : List Input), s.Inv → s.seqPhase = .waitLo →
    s.playing = false ∨ s.paused = true ∨ s.abortReq = true →
    ∃ (t u : State) (v : Nat),
      step { s with inputs := .sequencer :: .sequencer :: rest } = .next t ∧ step t = .next u ∧
      u.trace = s.trace ++ [.write s.pin v, .wait (1000000 / s.rate)] ∧
      u.curBuf = [] ∧ u.queue = s.queue ∧ (u.seqPhase = .off ∨ u.seqPhase = .fetch)

/-- R140, R133, R167: a STOP in `WAIT_LO` writes its zero, and the high nibble of the current byte is
still decoded, from `{0, 0}`, and written after it. -/
def Obligations.StopInLowWaitStillPlaysHighNibble : Prop :=
  ∀ (s : State) (rest : List Input) (b : Byte),
    s.seqPhase = .waitLo → s.curBuf[s.byteIdx]? = some b →
    ∃ (t u v : State) (x : Nat),
      exec .stop s = .next t ∧
      exec (.decodeNib (BitVec.ofNat 4 (b.toNat / 16))) (State.resetWith s.cfg) = .next v ∧
      v.response = some (.sample x) ∧
      step { t with inputs := .sequencer :: rest } = .next u ∧
      u.dec = v.dec ∧ u.seqPhase = .waitHi ∧ u.playing = false ∧ u.abortReq = true ∧
      u.trace = s.trace ++
        [.write s.pin 0, .write s.pin (x * s.vol / 256), .wait (1000000 / s.rate)]

/-- R130, R169, R225: a PLAY that follows a STOP within one wait does not start a second task; the old
task exits at its next check and the new session is scheduled then. From `WAIT_HI` that check is the next
sequencer step, and the session starts from `{0, 0}`. From `WAIT_LO` the high nibble is still decoded and
written first, and the session starts from the decoder state it leaves. -/
def Obligations.PlayAfterStopStartsWhenOldTaskExits : Prop :=
  ∀ (s : State) (rest : List Input) (buf : Buffer), s.Inv →
    (s.seqPhase = .waitHi →
      ∃ t u v : State, exec .stop s = .next t ∧ exec (.play buf) t = .next u ∧
        u.seqPhase = .waitHi ∧ u.curBuf = s.curBuf ∧
        step { u with inputs := .sequencer :: rest } = .next v ∧
        v.seqPhase = .fetch ∧ v.engine = .playing ∧ v.queue = [buf] ∧ v.curBuf = [] ∧
        v.abortReq = false ∧ v.startPend = false ∧ v.dec = ⟨0, 0⟩ ∧
        v.trace = s.trace ++ [.write s.pin 0]) ∧
    (∀ b : Byte, s.seqPhase = .waitLo → s.curBuf[s.byteIdx]? = some b →
      ∃ (t u v w fresh : State) (x : Nat), exec .stop s = .next t ∧ exec (.play buf) t = .next u ∧
        u.seqPhase = .waitLo ∧ u.curBuf = s.curBuf ∧
        exec (.decodeNib (BitVec.ofNat 4 (b.toNat / 16))) (State.resetWith s.cfg) = .next fresh ∧
        fresh.response = some (.sample x) ∧
        step { u with inputs := .sequencer :: .sequencer :: rest } = .next v ∧
        v.seqPhase = .waitHi ∧ v.curBuf = s.curBuf ∧ step v = .next w ∧
        w.seqPhase = .fetch ∧ w.engine = .playing ∧ w.queue = [buf] ∧ w.curBuf = [] ∧
        w.abortReq = false ∧ w.startPend = false ∧ w.dec = fresh.dec ∧
        w.trace = s.trace ++
          [.write s.pin 0, .write s.pin (x * s.vol / 256), .wait (1000000 / s.rate)])

/-- R125, R170, R174: left to itself, a scheduled session plays every queued buffer, front first, as one
stream: after one step more than two for each byte the engine is Idle, the queue is empty, the decoder
is where DECODE_BUF of the concatenated buffers would leave it, and the trace has gained, for each of
that decode's samples in order, its scaled write and one sample-period wait. That the sequencer goes on
when no further input comes is the model's form of the timer's duty (log entry 5). -/
def Obligations.SessionPlaysWholeQueueInOrder : Prop :=
  ∀ s : State, s.inputs = [] → s.seqPhase = .fetch → s.playing = true → s.paused = false →
    s.abortReq = false →
    ∃ (t : State) (xs : List Nat),
      exec (.decodeBuf s.queue.flatten) { s with seqPhase := .off } = .next t ∧
      t.response = some (.samples xs) ∧
      Sys2Proof.core.run (1 + 2 * s.queue.flatten.length) s = .next
        { s with
          dec := t.dec, playing := false, queue := [], seqPhase := .off, curBuf := [], byteIdx := 0
          abortReq := false, startPend := false
          trace := s.trace ++ xs.flatMap fun x =>
            [.write s.pin (x * s.vol / 256), .wait (1000000 / s.rate)] }

/-! ### Invariants and whole-machine rules -/

/-- R20, R23, R28: the invariant holds after reset, for all legal parameters. Two of its clauses are the
model's own strengthening (log entry 15), the legal parameters bound `RESET_RATE` above (log entry 14),
and the parameters of State.reset are the model's choice (log entry 2). -/
def Obligations.ResetMeetsInvariant : Prop :=
  (∀ cfg : Config, cfg.wellFormed = true → (State.resetWith cfg).Inv) ∧ State.reset.Inv

/-- R20, R23, R28: every step keeps the invariant. Two of its clauses are the model's own strengthening
(log entry 15), and the legal parameters bound `RESET_RATE` above (log entry 14). -/
def Obligations.StepKeepsInvariant : Prop :=
  ∀ s t : State, s.Inv → step s = .next t → t.Inv

/-- R59, R191, R196: in a state that meets the invariant the machine always has a next state, whatever
comes: nothing stops it, a fault included. The invariant is the model's, with log entries 14 and 15. -/
def Obligations.StepNeverStops : Prop :=
  ∀ s : State, s.Inv → ∃ t : State, step s = .next t

/-- R23, R28 (a) to (e): every state a run from reset can reach, under any commands, sequencer turns and
resets in any order, for all legal parameters, `RESET_RATE` being bounded above (log entry 14). -/
def Obligations.ReachableStatesAreLegal : Prop :=
  ∀ (cfg : Config) (inputs : List Input) (k : Nat), cfg.wellFormed = true →
    ∃ t : State,
      Sys2Proof.core.run k { State.resetWith cfg with inputs := inputs } = .next t ∧
      (-128 ≤ t.dec.pred ∧ t.dec.pred ≤ 127 ∧ t.dec.sidx.val ≤ 88) ∧
      (t.paused = true → t.playing = true) ∧
      (t.playing = true → t.paused = false → t.seqPhase ≠ .off) ∧
      (t.seqPhase = .off → t.abortReq = false ∧ t.startPend = false) ∧
      (t.startPend = true → t.abortReq = true) ∧
      (t.seqPhase = .waitLo ∨ t.seqPhase = .waitHi → t.byteIdx < t.curBuf.length)

/-- R21, R22: the decoder state is clamped after every update, and only the decode primitive (in a
sequencer step or in a decode command), STOP and reset write it; its reset value is `{0, 0}`. -/
def Obligations.DecoderStateIsClampedAndGuarded : Prop :=
  (∀ s t : State, step s = .next t → t.dec ≠ s.dec →
    (-128 ≤ t.dec.pred ∧ t.dec.pred ≤ 127 ∧ t.dec.sidx.val ≤ 88) ∧
    (((s.inputs = [] ∨ ∃ rest, s.inputs = .sequencer :: rest) ∧ s.seqPhase ≠ .off ∧
        ∃ n : Nibble, t.dec = (decodeNibble s.cfg n s.dec).1) ∨
     (∃ c rest n, s.inputs = .command c :: rest ∧ decode c = .ok (.decodeNib n) ∧
        t.dec = (decodeNibble s.cfg n s.dec).1) ∨
     (∃ c rest buf, s.inputs = .command c :: rest ∧ decode c = .ok (.decodeBuf buf) ∧
        t.dec = (decodeBytes s.cfg buf s.dec).1) ∨
     (∃ c rest, s.inputs = .command c :: rest ∧ decode c = .ok .stop ∧ t.dec = ⟨0, 0⟩) ∨
     (∃ rest, s.inputs = .reset :: rest ∧ t.dec = ⟨0, 0⟩))) ∧
  (∀ cfg : Config, (State.resetWith cfg).dec = ⟨0, 0⟩)

/-- R38, R191: only reset clears a `FAULT` bit. -/
def Obligations.FaultBitsAreSticky : Prop :=
  ∀ s t : State, step s = .next t → (∀ rest, s.inputs ≠ .reset :: rest) →
    s.faultReg &&& t.faultReg = s.faultReg

/-- R191, R196: a step that sets a `FAULT` bit is a command, sets one bit, gives no response and has no
other effect. -/
def Obligations.FaultingCommandHasNoOtherEffect : Prop :=
  ∀ s t : State, step s = .next t → (∀ rest, s.inputs ≠ .reset :: rest) → t.faultReg ≠ s.faultReg →
    ∃ (c : Command) (rest : List Input) (k : Nat), s.inputs = .command c :: rest ∧ k < 4 ∧
      t = { s with inputs := rest, faultReg := s.faultReg ||| (1#4 <<< k), response := none }

/-- R34, R39: no step writes the tables or any other parameter, and every step but reset only appends to
the trace. -/
def Obligations.ParametersFixedAndTraceGrows : Prop :=
  ∀ s t : State, step s = .next t →
    t.cfg = s.cfg ∧
    ((∀ rest, s.inputs ≠ .reset :: rest) → ∃ events : List Event, t.trace = s.trace ++ events)

/-- R139: the engine state changes only as the transition table says; reset (R220) is outside the
table. -/
def Obligations.EngineChangesOnlyAsListed : Prop :=
  ∀ s t : State, s.Inv → step s = .next t → t.engine ≠ s.engine →
    (∃ c rest buf, s.inputs = .command c :: rest ∧
      (decode c = .ok (.play buf) ∨ decode c = .ok (.queue buf)) ∧
      s.engine = .idle ∧ t.engine = .playing) ∨
    (∃ c rest, s.inputs = .command c :: rest ∧ decode c = .ok .pause ∧
      s.engine = .playing ∧ t.engine = .paused) ∨
    (∃ c rest, s.inputs = .command c :: rest ∧ decode c = .ok .resume ∧
      s.engine = .paused ∧ t.engine = .playing) ∨
    (∃ c rest, s.inputs = .command c :: rest ∧ decode c = .ok .stop ∧ t.engine = .idle) ∨
    ((s.inputs = [] ∨ ∃ rest, s.inputs = .sequencer :: rest) ∧
      (s.seqPhase = .fetch ∨ s.seqPhase = .waitHi) ∧ t.queue = [] ∧
      s.engine = .playing ∧ t.engine = .idle) ∨
    (∃ rest, s.inputs = .reset :: rest ∧ t.engine = .idle)

/-- R173, R130, R135: no command starts a second task or moves an active one; a session begun meanwhile
is recorded in `START_PEND`. From `OFF` a command can only schedule a task. -/
def Obligations.CommandsNeverDisturbActiveTask : Prop :=
  ∀ (i : Instr) (s : State), ∃ t : State, exec i s = .next t ∧
    t.curBuf = s.curBuf ∧ t.byteIdx = s.byteIdx ∧
    (s.seqPhase ≠ .off → t.seqPhase = s.seqPhase ∧
      (s.playing = false → t.playing = true → t.startPend = true)) ∧
    (s.seqPhase = .off → t.seqPhase = .off ∨ t.seqPhase = .fetch)

/-- R164, R165, R57, R32: what a sequencer step may do to the outside: nothing, the decoder state kept; or
one code decoded and its sample, scaled by the volume to 0..254, written to the current pin, followed by
one sample-period wait. It writes none of the configuration registers, `FAULT` or the response. -/
def Obligations.SequencerStepOutputAndFrame : Prop :=
  ∀ (s : State) (rest : List Input), s.Inv →
    ∃ t : State, step { s with inputs := .sequencer :: rest } = .next t ∧
      (t.trace = s.trace ∧ t.dec = s.dec ∨
        ∃ (n : Nibble) (x : Nat), decodeNibble s.cfg n s.dec = (t.dec, x) ∧
          x ≤ 255 ∧ x * s.vol / 256 ≤ 254 ∧
          t.trace = s.trace ++ [.write s.pin (x * s.vol / 256), .wait (1000000 / s.rate)]) ∧
      t.pin = s.pin ∧ t.rate = s.rate ∧ t.vol = s.vol ∧ t.paused = s.paused ∧
      t.faultReg = s.faultReg ∧ t.response = s.response ∧ t.inputs = rest ∧ t.queue <:+ s.queue

/-- R38, R39, R41: the fault record, the trace and the response are only recorded: they never steer what
the machine does. -/
def Obligations.ObservationsNeverSteer : Prop :=
  ∀ (s t : State) (f : BitVec 4) (tr : List Event) (r : Option Response), step s = .next t →
    ∃ (f' : BitVec 4) (tr' : List Event) (r' : Option Response),
      step { s with faultReg := f, trace := tr, response := r } =
        .next { t with faultReg := f', trace := tr', response := r' }

/-- R32, R109: pin, rate and volume reach only the sink and the timer: the decoder, the queue, the flags
and the sequencer go the same way whatever they are. -/
def Obligations.ConfigurationNeverSteers : Prop :=
  ∀ (s t : State) (p : PinId) (r v : Nat), step s = .next t →
    ∃ t' : State, step { s with pin := p, rate := r, vol := v } = .next t' ∧
      t'.dec = t.dec ∧ t'.playing = t.playing ∧ t'.paused = t.paused ∧ t'.queue = t.queue ∧
      t'.seqPhase = t.seqPhase ∧ t'.curBuf = t.curBuf ∧ t'.byteIdx = t.byteIdx ∧
      t'.abortReq = t.abortReq ∧ t'.startPend = t.startPend ∧ t'.faultReg = t.faultReg ∧
      t'.response = t.response ∧ t'.trace.length = t.trace.length
end

