-- ==== Sys2Proof/Laws/State.lean ====
section
/-! SUPPORT. What each named update of the state does to each field: one lemma per field per update, so
that no later proof unfolds a record update. -/

namespace Sys2Proof.Machine

/-! #### sinkWrite -/

@[simp] theorem sinkWrite_cfg (p : PinId) (v : Nat) (s : State) :
    (sinkWrite p v s).cfg = s.cfg := rfl
@[simp] theorem sinkWrite_dec (p : PinId) (v : Nat) (s : State) :
    (sinkWrite p v s).dec = s.dec := rfl
@[simp] theorem sinkWrite_playing (p : PinId) (v : Nat) (s : State) :
    (sinkWrite p v s).playing = s.playing := rfl
@[simp] theorem sinkWrite_paused (p : PinId) (v : Nat) (s : State) :
    (sinkWrite p v s).paused = s.paused := rfl
@[simp] theorem sinkWrite_pin (p : PinId) (v : Nat) (s : State) :
    (sinkWrite p v s).pin = s.pin := rfl
@[simp] theorem sinkWrite_rate (p : PinId) (v : Nat) (s : State) :
    (sinkWrite p v s).rate = s.rate := rfl
@[simp] theorem sinkWrite_vol (p : PinId) (v : Nat) (s : State) :
    (sinkWrite p v s).vol = s.vol := rfl
@[simp] theorem sinkWrite_queue (p : PinId) (v : Nat) (s : State) :
    (sinkWrite p v s).queue = s.queue := rfl
@[simp] theorem sinkWrite_seqPhase (p : PinId) (v : Nat) (s : State) :
    (sinkWrite p v s).seqPhase = s.seqPhase := rfl
@[simp] theorem sinkWrite_curBuf (p : PinId) (v : Nat) (s : State) :
    (sinkWrite p v s).curBuf = s.curBuf := rfl
@[simp] theorem sinkWrite_byteIdx (p : PinId) (v : Nat) (s : State) :
    (sinkWrite p v s).byteIdx = s.byteIdx := rfl
@[simp] theorem sinkWrite_abortReq (p : PinId) (v : Nat) (s : State) :
    (sinkWrite p v s).abortReq = s.abortReq := rfl
@[simp] theorem sinkWrite_startPend (p : PinId) (v : Nat) (s : State) :
    (sinkWrite p v s).startPend = s.startPend := rfl
@[simp] theorem sinkWrite_faultReg (p : PinId) (v : Nat) (s : State) :
    (sinkWrite p v s).faultReg = s.faultReg := rfl
@[simp] theorem sinkWrite_trace (p : PinId) (v : Nat) (s : State) :
    (sinkWrite p v s).trace = s.trace ++ [.write p v] := rfl
@[simp] theorem sinkWrite_response (p : PinId) (v : Nat) (s : State) :
    (sinkWrite p v s).response = s.response := rfl
@[simp] theorem sinkWrite_inputs (p : PinId) (v : Nat) (s : State) :
    (sinkWrite p v s).inputs = s.inputs := rfl

/-! #### timerWait -/

@[simp] theorem timerWait_cfg (us : Nat) (s : State) : (timerWait us s).cfg = s.cfg := rfl
@[simp] theorem timerWait_dec (us : Nat) (s : State) : (timerWait us s).dec = s.dec := rfl
@[simp] theorem timerWait_playing (us : Nat) (s : State) :
    (timerWait us s).playing = s.playing := rfl
@[simp] theorem timerWait_paused (us : Nat) (s : State) : (timerWait us s).paused = s.paused := rfl
@[simp] theorem timerWait_pin (us : Nat) (s : State) : (timerWait us s).pin = s.pin := rfl
@[simp] theorem timerWait_rate (us : Nat) (s : State) : (timerWait us s).rate = s.rate := rfl
@[simp] theorem timerWait_vol (us : Nat) (s : State) : (timerWait us s).vol = s.vol := rfl
@[simp] theorem timerWait_queue (us : Nat) (s : State) : (timerWait us s).queue = s.queue := rfl
@[simp] theorem timerWait_seqPhase (us : Nat) (s : State) :
    (timerWait us s).seqPhase = s.seqPhase := rfl
@[simp] theorem timerWait_curBuf (us : Nat) (s : State) : (timerWait us s).curBuf = s.curBuf := rfl
@[simp] theorem timerWait_byteIdx (us : Nat) (s : State) :
    (timerWait us s).byteIdx = s.byteIdx := rfl
@[simp] theorem timerWait_abortReq (us : Nat) (s : State) :
    (timerWait us s).abortReq = s.abortReq := rfl
@[simp] theorem timerWait_startPend (us : Nat) (s : State) :
    (timerWait us s).startPend = s.startPend := rfl
@[simp] theorem timerWait_faultReg (us : Nat) (s : State) :
    (timerWait us s).faultReg = s.faultReg := rfl
@[simp] theorem timerWait_trace (us : Nat) (s : State) :
    (timerWait us s).trace = s.trace ++ [.wait us] := rfl
@[simp] theorem timerWait_response (us : Nat) (s : State) :
    (timerWait us s).response = s.response := rfl
@[simp] theorem timerWait_inputs (us : Nat) (s : State) : (timerWait us s).inputs = s.inputs := rfl

/-! #### respond -/

@[simp] theorem respond_cfg (r : Option Response) (s : State) : (respond r s).cfg = s.cfg := rfl
@[simp] theorem respond_dec (r : Option Response) (s : State) : (respond r s).dec = s.dec := rfl
@[simp] theorem respond_playing (r : Option Response) (s : State) :
    (respond r s).playing = s.playing := rfl
@[simp] theorem respond_paused (r : Option Response) (s : State) :
    (respond r s).paused = s.paused := rfl
@[simp] theorem respond_pin (r : Option Response) (s : State) : (respond r s).pin = s.pin := rfl
@[simp] theorem respond_rate (r : Option Response) (s : State) : (respond r s).rate = s.rate := rfl
@[simp] theorem respond_vol (r : Option Response) (s : State) : (respond r s).vol = s.vol := rfl
@[simp] theorem respond_queue (r : Option Response) (s : State) :
    (respond r s).queue = s.queue := rfl
@[simp] theorem respond_seqPhase (r : Option Response) (s : State) :
    (respond r s).seqPhase = s.seqPhase := rfl
@[simp] theorem respond_curBuf (r : Option Response) (s : State) :
    (respond r s).curBuf = s.curBuf := rfl
@[simp] theorem respond_byteIdx (r : Option Response) (s : State) :
    (respond r s).byteIdx = s.byteIdx := rfl
@[simp] theorem respond_abortReq (r : Option Response) (s : State) :
    (respond r s).abortReq = s.abortReq := rfl
@[simp] theorem respond_startPend (r : Option Response) (s : State) :
    (respond r s).startPend = s.startPend := rfl
@[simp] theorem respond_faultReg (r : Option Response) (s : State) :
    (respond r s).faultReg = s.faultReg := rfl
@[simp] theorem respond_trace (r : Option Response) (s : State) :
    (respond r s).trace = s.trace := rfl
@[simp] theorem respond_response (r : Option Response) (s : State) :
    (respond r s).response = r := rfl
@[simp] theorem respond_inputs (r : Option Response) (s : State) :
    (respond r s).inputs = s.inputs := rfl

/-! #### recordFault -/

@[simp] theorem recordFault_cfg (c : Cause) (s : State) : (recordFault c s).cfg = s.cfg := rfl
@[simp] theorem recordFault_dec (c : Cause) (s : State) : (recordFault c s).dec = s.dec := rfl
@[simp] theorem recordFault_playing (c : Cause) (s : State) :
    (recordFault c s).playing = s.playing := rfl
@[simp] theorem recordFault_paused (c : Cause) (s : State) :
    (recordFault c s).paused = s.paused := rfl
@[simp] theorem recordFault_pin (c : Cause) (s : State) : (recordFault c s).pin = s.pin := rfl
@[simp] theorem recordFault_rate (c : Cause) (s : State) : (recordFault c s).rate = s.rate := rfl
@[simp] theorem recordFault_vol (c : Cause) (s : State) : (recordFault c s).vol = s.vol := rfl
@[simp] theorem recordFault_queue (c : Cause) (s : State) : (recordFault c s).queue = s.queue := rfl
@[simp] theorem recordFault_seqPhase (c : Cause) (s : State) :
    (recordFault c s).seqPhase = s.seqPhase := rfl
@[simp] theorem recordFault_curBuf (c : Cause) (s : State) :
    (recordFault c s).curBuf = s.curBuf := rfl
@[simp] theorem recordFault_byteIdx (c : Cause) (s : State) :
    (recordFault c s).byteIdx = s.byteIdx := rfl
@[simp] theorem recordFault_abortReq (c : Cause) (s : State) :
    (recordFault c s).abortReq = s.abortReq := rfl
@[simp] theorem recordFault_startPend (c : Cause) (s : State) :
    (recordFault c s).startPend = s.startPend := rfl
@[simp] theorem recordFault_faultReg (c : Cause) (s : State) :
    (recordFault c s).faultReg = s.faultReg ||| c.bit := rfl
@[simp] theorem recordFault_trace (c : Cause) (s : State) : (recordFault c s).trace = s.trace := rfl
@[simp] theorem recordFault_response (c : Cause) (s : State) :
    (recordFault c s).response = s.response := rfl
@[simp] theorem recordFault_inputs (c : Cause) (s : State) :
    (recordFault c s).inputs = s.inputs := rfl

/-! #### setDecoder -/

@[simp] theorem setDecoder_cfg (d : DecoderState) (s : State) : (setDecoder d s).cfg = s.cfg := rfl
@[simp] theorem setDecoder_dec (d : DecoderState) (s : State) : (setDecoder d s).dec = d := rfl
@[simp] theorem setDecoder_playing (d : DecoderState) (s : State) :
    (setDecoder d s).playing = s.playing := rfl
@[simp] theorem setDecoder_paused (d : DecoderState) (s : State) :
    (setDecoder d s).paused = s.paused := rfl
@[simp] theorem setDecoder_pin (d : DecoderState) (s : State) : (setDecoder d s).pin = s.pin := rfl
@[simp] theorem setDecoder_rate (d : DecoderState) (s : State) :
    (setDecoder d s).rate = s.rate := rfl
@[simp] theorem setDecoder_vol (d : DecoderState) (s : State) : (setDecoder d s).vol = s.vol := rfl
@[simp] theorem setDecoder_queue (d : DecoderState) (s : State) :
    (setDecoder d s).queue = s.queue := rfl
@[simp] theorem setDecoder_seqPhase (d : DecoderState) (s : State) :
    (setDecoder d s).seqPhase = s.seqPhase := rfl
@[simp] theorem setDecoder_curBuf (d : DecoderState) (s : State) :
    (setDecoder d s).curBuf = s.curBuf := rfl
@[simp] theorem setDecoder_byteIdx (d : DecoderState) (s : State) :
    (setDecoder d s).byteIdx = s.byteIdx := rfl
@[simp] theorem setDecoder_abortReq (d : DecoderState) (s : State) :
    (setDecoder d s).abortReq = s.abortReq := rfl
@[simp] theorem setDecoder_startPend (d : DecoderState) (s : State) :
    (setDecoder d s).startPend = s.startPend := rfl
@[simp] theorem setDecoder_faultReg (d : DecoderState) (s : State) :
    (setDecoder d s).faultReg = s.faultReg := rfl
@[simp] theorem setDecoder_trace (d : DecoderState) (s : State) :
    (setDecoder d s).trace = s.trace := rfl
@[simp] theorem setDecoder_response (d : DecoderState) (s : State) :
    (setDecoder d s).response = s.response := rfl
@[simp] theorem setDecoder_inputs (d : DecoderState) (s : State) :
    (setDecoder d s).inputs = s.inputs := rfl

/-! #### appendBuffer -/

@[simp] theorem appendBuffer_cfg (b : Buffer) (s : State) : (appendBuffer b s).cfg = s.cfg := rfl
@[simp] theorem appendBuffer_dec (b : Buffer) (s : State) : (appendBuffer b s).dec = s.dec := rfl
@[simp] theorem appendBuffer_playing (b : Buffer) (s : State) :
    (appendBuffer b s).playing = s.playing := rfl
@[simp] theorem appendBuffer_paused (b : Buffer) (s : State) :
    (appendBuffer b s).paused = s.paused := rfl
@[simp] theorem appendBuffer_pin (b : Buffer) (s : State) : (appendBuffer b s).pin = s.pin := rfl
@[simp] theorem appendBuffer_rate (b : Buffer) (s : State) : (appendBuffer b s).rate = s.rate := rfl
@[simp] theorem appendBuffer_vol (b : Buffer) (s : State) : (appendBuffer b s).vol = s.vol := rfl
@[simp] theorem appendBuffer_queue (b : Buffer) (s : State) :
    (appendBuffer b s).queue = s.queue ++ [b] := rfl
@[simp] theorem appendBuffer_seqPhase (b : Buffer) (s : State) :
    (appendBuffer b s).seqPhase = s.seqPhase := rfl
@[simp] theorem appendBuffer_curBuf (b : Buffer) (s : State) :
    (appendBuffer b s).curBuf = s.curBuf := rfl
@[simp] theorem appendBuffer_byteIdx (b : Buffer) (s : State) :
    (appendBuffer b s).byteIdx = s.byteIdx := rfl
@[simp] theorem appendBuffer_abortReq (b : Buffer) (s : State) :
    (appendBuffer b s).abortReq = s.abortReq := rfl
@[simp] theorem appendBuffer_startPend (b : Buffer) (s : State) :
    (appendBuffer b s).startPend = s.startPend := rfl
@[simp] theorem appendBuffer_faultReg (b : Buffer) (s : State) :
    (appendBuffer b s).faultReg = s.faultReg := rfl
@[simp] theorem appendBuffer_trace (b : Buffer) (s : State) :
    (appendBuffer b s).trace = s.trace := rfl
@[simp] theorem appendBuffer_response (b : Buffer) (s : State) :
    (appendBuffer b s).response = s.response := rfl
@[simp] theorem appendBuffer_inputs (b : Buffer) (s : State) :
    (appendBuffer b s).inputs = s.inputs := rfl

/-! #### clearQueue -/

@[simp] theorem clearQueue_cfg (s : State) : (clearQueue s).cfg = s.cfg := rfl
@[simp] theorem clearQueue_dec (s : State) : (clearQueue s).dec = s.dec := rfl
@[simp] theorem clearQueue_playing (s : State) : (clearQueue s).playing = s.playing := rfl
@[simp] theorem clearQueue_paused (s : State) : (clearQueue s).paused = s.paused := rfl
@[simp] theorem clearQueue_pin (s : State) : (clearQueue s).pin = s.pin := rfl
@[simp] theorem clearQueue_rate (s : State) : (clearQueue s).rate = s.rate := rfl
@[simp] theorem clearQueue_vol (s : State) : (clearQueue s).vol = s.vol := rfl
@[simp] theorem clearQueue_queue (s : State) : (clearQueue s).queue = [] := rfl
@[simp] theorem clearQueue_seqPhase (s : State) : (clearQueue s).seqPhase = s.seqPhase := rfl
@[simp] theorem clearQueue_curBuf (s : State) : (clearQueue s).curBuf = s.curBuf := rfl
@[simp] theorem clearQueue_byteIdx (s : State) : (clearQueue s).byteIdx = s.byteIdx := rfl
@[simp] theorem clearQueue_abortReq (s : State) : (clearQueue s).abortReq = s.abortReq := rfl
@[simp] theorem clearQueue_startPend (s : State) : (clearQueue s).startPend = s.startPend := rfl
@[simp] theorem clearQueue_faultReg (s : State) : (clearQueue s).faultReg = s.faultReg := rfl
@[simp] theorem clearQueue_trace (s : State) : (clearQueue s).trace = s.trace := rfl
@[simp] theorem clearQueue_response (s : State) : (clearQueue s).response = s.response := rfl
@[simp] theorem clearQueue_inputs (s : State) : (clearQueue s).inputs = s.inputs := rfl

/-! #### scheduleTask -/

@[simp] theorem scheduleTask_cfg (s : State) : (scheduleTask s).cfg = s.cfg := rfl
@[simp] theorem scheduleTask_dec (s : State) : (scheduleTask s).dec = s.dec := rfl
@[simp] theorem scheduleTask_playing (s : State) : (scheduleTask s).playing = s.playing := rfl
@[simp] theorem scheduleTask_paused (s : State) : (scheduleTask s).paused = s.paused := rfl
@[simp] theorem scheduleTask_pin (s : State) : (scheduleTask s).pin = s.pin := rfl
@[simp] theorem scheduleTask_rate (s : State) : (scheduleTask s).rate = s.rate := rfl
@[simp] theorem scheduleTask_vol (s : State) : (scheduleTask s).vol = s.vol := rfl
@[simp] theorem scheduleTask_queue (s : State) : (scheduleTask s).queue = s.queue := rfl
@[simp] theorem scheduleTask_seqPhase (s : State) : (scheduleTask s).seqPhase = .fetch := rfl
@[simp] theorem scheduleTask_curBuf (s : State) : (scheduleTask s).curBuf = s.curBuf := rfl
@[simp] theorem scheduleTask_byteIdx (s : State) : (scheduleTask s).byteIdx = s.byteIdx := rfl
@[simp] theorem scheduleTask_abortReq (s : State) : (scheduleTask s).abortReq = s.abortReq := rfl
@[simp] theorem scheduleTask_startPend (s : State) : (scheduleTask s).startPend = s.startPend := rfl
@[simp] theorem scheduleTask_faultReg (s : State) : (scheduleTask s).faultReg = s.faultReg := rfl
@[simp] theorem scheduleTask_trace (s : State) : (scheduleTask s).trace = s.trace := rfl
@[simp] theorem scheduleTask_response (s : State) : (scheduleTask s).response = s.response := rfl
@[simp] theorem scheduleTask_inputs (s : State) : (scheduleTask s).inputs = s.inputs := rfl

/-! #### emit -/

@[simp] theorem emit_cfg (x : Nat) (s : State) : (emit x s).cfg = s.cfg := rfl
@[simp] theorem emit_dec (x : Nat) (s : State) : (emit x s).dec = s.dec := rfl
@[simp] theorem emit_playing (x : Nat) (s : State) : (emit x s).playing = s.playing := rfl
@[simp] theorem emit_paused (x : Nat) (s : State) : (emit x s).paused = s.paused := rfl
@[simp] theorem emit_pin (x : Nat) (s : State) : (emit x s).pin = s.pin := rfl
@[simp] theorem emit_rate (x : Nat) (s : State) : (emit x s).rate = s.rate := rfl
@[simp] theorem emit_vol (x : Nat) (s : State) : (emit x s).vol = s.vol := rfl
@[simp] theorem emit_queue (x : Nat) (s : State) : (emit x s).queue = s.queue := rfl
@[simp] theorem emit_seqPhase (x : Nat) (s : State) : (emit x s).seqPhase = s.seqPhase := rfl
@[simp] theorem emit_curBuf (x : Nat) (s : State) : (emit x s).curBuf = s.curBuf := rfl
@[simp] theorem emit_byteIdx (x : Nat) (s : State) : (emit x s).byteIdx = s.byteIdx := rfl
@[simp] theorem emit_abortReq (x : Nat) (s : State) : (emit x s).abortReq = s.abortReq := rfl
@[simp] theorem emit_startPend (x : Nat) (s : State) : (emit x s).startPend = s.startPend := rfl
@[simp] theorem emit_faultReg (x : Nat) (s : State) : (emit x s).faultReg = s.faultReg := rfl
@[simp] theorem emit_trace (x : Nat) (s : State) :
    (emit x s).trace = s.trace ++ [.write s.pin (intensity x s.vol)] ++ [.wait (samplePeriod s.rate)] := rfl
@[simp] theorem emit_response (x : Nat) (s : State) : (emit x s).response = s.response := rfl
@[simp] theorem emit_inputs (x : Nat) (s : State) : (emit x s).inputs = s.inputs := rfl

/-! #### playCode -/

@[simp] theorem playCode_cfg (n : Nibble) (s : State) : (playCode n s).cfg = s.cfg := rfl
@[simp] theorem playCode_dec (n : Nibble) (s : State) :
    (playCode n s).dec = decodeState s.cfg n s.dec := rfl
@[simp] theorem playCode_playing (n : Nibble) (s : State) :
    (playCode n s).playing = s.playing := rfl
@[simp] theorem playCode_paused (n : Nibble) (s : State) : (playCode n s).paused = s.paused := rfl
@[simp] theorem playCode_pin (n : Nibble) (s : State) : (playCode n s).pin = s.pin := rfl
@[simp] theorem playCode_rate (n : Nibble) (s : State) : (playCode n s).rate = s.rate := rfl
@[simp] theorem playCode_vol (n : Nibble) (s : State) : (playCode n s).vol = s.vol := rfl
@[simp] theorem playCode_queue (n : Nibble) (s : State) : (playCode n s).queue = s.queue := rfl
@[simp] theorem playCode_seqPhase (n : Nibble) (s : State) :
    (playCode n s).seqPhase = s.seqPhase := rfl
@[simp] theorem playCode_curBuf (n : Nibble) (s : State) : (playCode n s).curBuf = s.curBuf := rfl
@[simp] theorem playCode_byteIdx (n : Nibble) (s : State) :
    (playCode n s).byteIdx = s.byteIdx := rfl
@[simp] theorem playCode_abortReq (n : Nibble) (s : State) :
    (playCode n s).abortReq = s.abortReq := rfl
@[simp] theorem playCode_startPend (n : Nibble) (s : State) :
    (playCode n s).startPend = s.startPend := rfl
@[simp] theorem playCode_faultReg (n : Nibble) (s : State) :
    (playCode n s).faultReg = s.faultReg := rfl
@[simp] theorem playCode_trace (n : Nibble) (s : State) :
    (playCode n s).trace =
      s.trace ++ [.write s.pin (intensity (sampleOf (decodeState s.cfg n s.dec)) s.vol)] ++
      [.wait (samplePeriod s.rate)] := rfl
@[simp] theorem playCode_response (n : Nibble) (s : State) :
    (playCode n s).response = s.response := rfl
@[simp] theorem playCode_inputs (n : Nibble) (s : State) : (playCode n s).inputs = s.inputs := rfl

/-! #### exitTask -/

@[simp] theorem exitTask_cfg (s : State) : (exitTask s).cfg = s.cfg := rfl
@[simp] theorem exitTask_dec (s : State) : (exitTask s).dec = s.dec := rfl
@[simp] theorem exitTask_playing (s : State) : (exitTask s).playing = s.playing := rfl
@[simp] theorem exitTask_paused (s : State) : (exitTask s).paused = s.paused := rfl
@[simp] theorem exitTask_pin (s : State) : (exitTask s).pin = s.pin := rfl
@[simp] theorem exitTask_rate (s : State) : (exitTask s).rate = s.rate := rfl
@[simp] theorem exitTask_vol (s : State) : (exitTask s).vol = s.vol := rfl
@[simp] theorem exitTask_queue (s : State) : (exitTask s).queue = s.queue := rfl
@[simp] theorem exitTask_seqPhase (s : State) :
    (exitTask s).seqPhase = (if s.startPend && (s.playing && !s.paused) then .fetch else .off) := rfl
@[simp] theorem exitTask_curBuf (s : State) : (exitTask s).curBuf = [] := rfl
@[simp] theorem exitTask_byteIdx (s : State) : (exitTask s).byteIdx = 0 := rfl
@[simp] theorem exitTask_abortReq (s : State) : (exitTask s).abortReq = false := rfl
@[simp] theorem exitTask_startPend (s : State) : (exitTask s).startPend = false := rfl
@[simp] theorem exitTask_faultReg (s : State) : (exitTask s).faultReg = s.faultReg := rfl
@[simp] theorem exitTask_trace (s : State) : (exitTask s).trace = s.trace := rfl
@[simp] theorem exitTask_response (s : State) : (exitTask s).response = s.response := rfl
@[simp] theorem exitTask_inputs (s : State) : (exitTask s).inputs = s.inputs := rfl

/-! #### resetBlock -/

@[simp] theorem resetBlock_cfg (s : State) : (resetBlock s).cfg = s.cfg := rfl
@[simp] theorem resetBlock_dec (s : State) : (resetBlock s).dec = ⟨0, 0⟩ := rfl
@[simp] theorem resetBlock_playing (s : State) : (resetBlock s).playing = false := rfl
@[simp] theorem resetBlock_paused (s : State) : (resetBlock s).paused = false := rfl
@[simp] theorem resetBlock_pin (s : State) : (resetBlock s).pin = s.cfg.resetPin := rfl
@[simp] theorem resetBlock_rate (s : State) : (resetBlock s).rate = s.cfg.resetRate := rfl
@[simp] theorem resetBlock_vol (s : State) : (resetBlock s).vol = s.cfg.resetVolume := rfl
@[simp] theorem resetBlock_queue (s : State) : (resetBlock s).queue = [] := rfl
@[simp] theorem resetBlock_seqPhase (s : State) : (resetBlock s).seqPhase = .off := rfl
@[simp] theorem resetBlock_curBuf (s : State) : (resetBlock s).curBuf = [] := rfl
@[simp] theorem resetBlock_byteIdx (s : State) : (resetBlock s).byteIdx = 0 := rfl
@[simp] theorem resetBlock_abortReq (s : State) : (resetBlock s).abortReq = false := rfl
@[simp] theorem resetBlock_startPend (s : State) : (resetBlock s).startPend = false := rfl
@[simp] theorem resetBlock_faultReg (s : State) : (resetBlock s).faultReg = 0#4 := rfl
@[simp] theorem resetBlock_trace (s : State) : (resetBlock s).trace = [] := rfl
@[simp] theorem resetBlock_response (s : State) : (resetBlock s).response = none := rfl
@[simp] theorem resetBlock_inputs (s : State) : (resetBlock s).inputs = s.inputs := rfl

/-! #### offerCommand -/

@[simp] theorem offerCommand_cfg (c : Command) (s : State) : (offerCommand c s).cfg = s.cfg := rfl
@[simp] theorem offerCommand_dec (c : Command) (s : State) : (offerCommand c s).dec = s.dec := rfl
@[simp] theorem offerCommand_playing (c : Command) (s : State) :
    (offerCommand c s).playing = s.playing := rfl
@[simp] theorem offerCommand_paused (c : Command) (s : State) :
    (offerCommand c s).paused = s.paused := rfl
@[simp] theorem offerCommand_pin (c : Command) (s : State) : (offerCommand c s).pin = s.pin := rfl
@[simp] theorem offerCommand_rate (c : Command) (s : State) :
    (offerCommand c s).rate = s.rate := rfl
@[simp] theorem offerCommand_vol (c : Command) (s : State) : (offerCommand c s).vol = s.vol := rfl
@[simp] theorem offerCommand_queue (c : Command) (s : State) :
    (offerCommand c s).queue = s.queue := rfl
@[simp] theorem offerCommand_seqPhase (c : Command) (s : State) :
    (offerCommand c s).seqPhase = s.seqPhase := rfl
@[simp] theorem offerCommand_curBuf (c : Command) (s : State) :
    (offerCommand c s).curBuf = s.curBuf := rfl
@[simp] theorem offerCommand_byteIdx (c : Command) (s : State) :
    (offerCommand c s).byteIdx = s.byteIdx := rfl
@[simp] theorem offerCommand_abortReq (c : Command) (s : State) :
    (offerCommand c s).abortReq = s.abortReq := rfl
@[simp] theorem offerCommand_startPend (c : Command) (s : State) :
    (offerCommand c s).startPend = s.startPend := rfl
@[simp] theorem offerCommand_faultReg (c : Command) (s : State) :
    (offerCommand c s).faultReg = s.faultReg := rfl
@[simp] theorem offerCommand_trace (c : Command) (s : State) :
    (offerCommand c s).trace = s.trace := rfl
@[simp] theorem offerCommand_response (c : Command) (s : State) :
    (offerCommand c s).response = s.response := rfl
@[simp] theorem offerCommand_inputs (c : Command) (s : State) :
    (offerCommand c s).inputs = .command c :: s.inputs := rfl

/-! #### start -/

@[simp] theorem start_cfg (s : State) : (start s).cfg = s.cfg := by
  unfold start; split <;> rfl
@[simp] theorem start_dec (s : State) : (start s).dec = s.dec := by
  unfold start; split <;> rfl
@[simp] theorem start_playing (s : State) : (start s).playing = s.playing := by
  unfold start; split <;> rfl
@[simp] theorem start_paused (s : State) : (start s).paused = s.paused := by
  unfold start; split <;> rfl
@[simp] theorem start_pin (s : State) : (start s).pin = s.pin := by
  unfold start; split <;> rfl
@[simp] theorem start_rate (s : State) : (start s).rate = s.rate := by
  unfold start; split <;> rfl
@[simp] theorem start_vol (s : State) : (start s).vol = s.vol := by
  unfold start; split <;> rfl
@[simp] theorem start_queue (s : State) : (start s).queue = s.queue := by
  unfold start; split <;> rfl
@[simp] theorem start_seqPhase (s : State) :
    (start s).seqPhase = if s.seqPhase = .off then .fetch else s.seqPhase := by
  unfold start; split <;> rfl
@[simp] theorem start_curBuf (s : State) : (start s).curBuf = s.curBuf := by
  unfold start; split <;> rfl
@[simp] theorem start_byteIdx (s : State) : (start s).byteIdx = s.byteIdx := by
  unfold start; split <;> rfl
@[simp] theorem start_abortReq (s : State) : (start s).abortReq = s.abortReq := by
  unfold start; split <;> rfl
@[simp] theorem start_startPend (s : State) :
    (start s).startPend = if s.seqPhase = .off then s.startPend else true := by
  unfold start; split <;> rfl
@[simp] theorem start_faultReg (s : State) : (start s).faultReg = s.faultReg := by
  unfold start; split <;> rfl
@[simp] theorem start_trace (s : State) : (start s).trace = s.trace := by
  unfold start; split <;> rfl
@[simp] theorem start_response (s : State) : (start s).response = s.response := by
  unfold start; split <;> rfl
@[simp] theorem start_inputs (s : State) : (start s).inputs = s.inputs := by
  unfold start; split <;> rfl

end Sys2Proof.Machine
end

