-- ==== Sys2Proof/Laws/Ops.lean ====
section
/-! SUPPORT. One law per shared operation: the arithmetic primitives, the decode primitive and its loop,
how commands end, the queue primitives, and the exit of a task. -/

namespace Sys2Proof.Machine

/-! #### Arithmetic -/

theorem clamp_of_mem {v lo hi : Int} (h₁ : lo ≤ v) (h₂ : v ≤ hi) : clamp v lo hi = v := by
  unfold clamp
  split
  · omega
  · split <;> omega

theorem clamp_eq_max_min {lo hi : Int} (h : lo ≤ hi) (v : Int) :
    clamp v lo hi = max lo (min hi v) := by
  unfold clamp
  split
  · omega
  · split <;> omega

theorem clampIndex_val (v : Int) : ((clampIndex v).val : Int) = clamp v 0 88 := by
  have := clamp_bounds v (lo := 0) (hi := 88) (by decide)
  simp only [clampIndex, sidxMax]
  omega

/-- R165: the intensity is the floor of the product over 256. -/
theorem intensity_eq (x vol : Nat) : intensity x vol = x * vol / 256 := by
  simp [intensity, Nat.shiftRight_eq_div_pow]

theorem samplePeriod_eq (rate : Nat) : samplePeriod rate = 1000000 / rate := rfl

/-- R57, R165: the intensity of an 8-bit sample at an 8-bit volume is at most 254. -/
theorem intensity_le {x vol : Nat} (hx : x ≤ 255) (hv : vol ≤ 255) : intensity x vol ≤ 254 := by
  have : x * vol ≤ 255 * 255 := Nat.mul_le_mul hx hv
  rw [intensity_eq]
  omega

/-- R102: the magnitude as a sum of separately rounded quotients. -/
theorem magnitude_eq (step : Nat) (n : Nibble) :
    magnitude step n = step / 8 + (if n.getLsbD 0 then step / 4 else 0) +
      (if n.getLsbD 1 then step / 2 else 0) + (if n.getLsbD 2 then step else 0) := by
  simp [magnitude, Nat.shiftRight_eq_div_pow]

/-! #### The decode primitive -/

/-- R21, R23: the predictor is in range after every decode, from any state. -/
theorem decodeState_pred_bounds (cfg : Config) (n : Nibble) (d : DecoderState) :
    -128 ≤ (decodeState cfg n d).pred ∧ (decodeState cfg n d).pred ≤ 127 :=
  clamp_bounds _ (by decide)

/-- R106: the sample is in 0..255. -/
theorem sampleOf_decodeState_le (cfg : Config) (n : Nibble) (d : DecoderState) :
    sampleOf (decodeState cfg n d) ≤ 255 := by
  have := decodeState_pred_bounds cfg n d
  simp only [sampleOf]
  omega

@[simp] theorem decodeNibble_fst (cfg : Config) (n : Nibble) (d : DecoderState) :
    (decodeNibble cfg n d).1 = decodeState cfg n d := rfl

@[simp] theorem decodeNibble_snd (cfg : Config) (n : Nibble) (d : DecoderState) :
    (decodeNibble cfg n d).2 = sampleOf (decodeState cfg n d) := rfl

@[simp] theorem decodeBytes_nil (cfg : Config) (d : DecoderState) : decodeBytes cfg [] d = (d, []) := rfl

/-- R111: one pass of the loop. -/
theorem decodeBytes_cons (cfg : Config) (b : Byte) (rest : Buffer) (d : DecoderState) :
    decodeBytes cfg (b :: rest) d =
      let lo := decodeState cfg (lowNibble b) d
      let hi := decodeState cfg (highNibble b) lo
      ((decodeBytes cfg rest hi).1, sampleOf lo :: sampleOf hi :: (decodeBytes cfg rest hi).2) := rfl

/-- The loop over a concatenation is the loop over its parts in order. -/
theorem decodeBytes_append (cfg : Config) (a b : Buffer) (d : DecoderState) :
    decodeBytes cfg (a ++ b) d =
      ((decodeBytes cfg b (decodeBytes cfg a d).1).1,
        (decodeBytes cfg a d).2 ++ (decodeBytes cfg b (decodeBytes cfg a d).1).2) := by
  induction a generalizing d with
  | nil => rfl
  | cons x xs ih => simp [decodeBytes_cons, ih]

theorem decodeBytes_length (cfg : Config) (buf : Buffer) (d : DecoderState) :
    (decodeBytes cfg buf d).2.length = 2 * buf.length := by
  induction buf generalizing d with
  | nil => rfl
  | cons b rest ih => simp [decodeBytes_cons, ih]; omega

theorem decodeBytes_samples_le (cfg : Config) (buf : Buffer) (d : DecoderState) :
    ∀ x ∈ (decodeBytes cfg buf d).2, x ≤ 255 := by
  induction buf generalizing d with
  | nil => simp
  | cons b rest ih =>
    simp only [decodeBytes_cons, List.mem_cons]
    rintro x (rfl | rfl | hx)
    · exact sampleOf_decodeState_le ..
    · exact sampleOf_decodeState_le ..
    · exact ih _ x hx

/-- The decoder state after the loop is in range if the start was, or if any byte was decoded. -/
theorem decodeBytes_pred_bounds (cfg : Config) (buf : Buffer) (d : DecoderState)
    (h : buf = [] → -128 ≤ d.pred ∧ d.pred ≤ 127) :
    -128 ≤ (decodeBytes cfg buf d).1.pred ∧ (decodeBytes cfg buf d).1.pred ≤ 127 := by
  induction buf generalizing d with
  | nil => exact h rfl
  | cons b rest ih => exact ih _ fun _ => decodeState_pred_bounds ..

/-! #### How a command ends -/

@[simp] theorem finish_eq (s : State) : finish s = .next (respond none s) := rfl

@[simp] theorem answer_eq (r : Response) (s : State) : answer r s = .next (respond (some r) s) := rfl

/-- R191: a fault records its bit, clears the response, and does nothing else. -/
theorem raiseFault_eq (c : Cause) (s : State) :
    raiseFault c s = .next { s with faultReg := s.faultReg ||| c.bit, response := none } := rfl

/-- R38: the four bits. -/
theorem cause_bit (c : Cause) : c.bit = 1#4 <<< (c.number - 1) ∧ c.number - 1 < 4 := by
  cases c <;> decide

/-- R163, R164, R167: playing one code, as one update. -/
theorem playCode_eq (n : Nibble) (s : State) :
    playCode n s =
      { s with
        dec := decodeState s.cfg n s.dec
        trace := s.trace ++
          [.write s.pin (sampleOf (decodeState s.cfg n s.dec) * s.vol / 256),
           .wait (1000000 / s.rate)] } := by
  simp [playCode, emit, timerWait, sinkWrite, setDecoder, intensity_eq, samplePeriod_eq]

/-! #### The queue and the start of a session -/

theorem queueFull_iff (s : State) :
    queueFull s = true ↔ ∃ cap, s.cfg.queueCap = some cap ∧ cap ≤ s.queue.length := by
  unfold queueFull
  split <;> simp_all

/-- R131, R132: everything PLAY and QUEUE can do. -/
theorem enqueueAndStart_cases {b : Buffer} {s t : State} (h : enqueueAndStart b s = .next t) :
    (queueFull s = true ∧ t = respond none (recordFault .queueOverflow s)) ∨
    (queueFull s = false ∧ s.playing = true ∧ t = respond none (appendBuffer b s)) ∨
    (queueFull s = false ∧ s.playing = false ∧ s.seqPhase = .off ∧
      t = { s with queue := s.queue ++ [b], playing := true, seqPhase := .fetch, response := none }) ∨
    (queueFull s = false ∧ s.playing = false ∧ s.seqPhase ≠ .off ∧
      t = { s with queue := s.queue ++ [b], playing := true, startPend := true, response := none }) := by
  unfold enqueueAndStart at h
  split at h
  · next hf => exact .inl ⟨hf, by simpa [raiseFault] using h.symm⟩
  · next hf =>
    split at h
    · next hp => exact .inr (.inl ⟨by simpa using hf, hp, by simpa using h.symm⟩)
    · next hp =>
      by_cases ho : s.seqPhase = .off
      · refine .inr (.inr (.inl ⟨by simpa using hf, by simpa using hp, ho, ?_⟩))
        simpa [start, ho, appendBuffer, scheduleTask, respond] using h.symm
      · refine .inr (.inr (.inr ⟨by simpa using hf, by simpa using hp, ho, ?_⟩))
        simpa [start, ho, appendBuffer, respond] using h.symm

/-- R169: an exit without a deferred start leaves no task. -/
theorem exitTask_seqPhase_off {s : State} (h : s.startPend = false) : (exitTask s).seqPhase = .off := by
  simp [h]

end Sys2Proof.Machine
end

