-- ==== Sys2Proof/Laws/Commands.lean ====
section
/-! SUPPORT. What a command answers, as one update of the state, in the model's own terms. -/

namespace Sys2Proof.Machine

/-- R110 with no task active. -/
theorem execDecodeNib_idle {s : State} (h : s.seqPhase = .off) (n : Nibble) :
    execDecodeNib n s =
      .next { s with
              dec := decodeState s.cfg n s.dec
              response := some (.sample (sampleOf (decodeState s.cfg n s.dec))) } := by
  simp [execDecodeNib, State.active, h, respond, setDecoder]

/-- R111 with no task active. -/
theorem execDecodeBuf_idle {s : State} (h : s.seqPhase = .off) (buf : Buffer) :
    execDecodeBuf buf s =
      .next { s with
              dec := (decodeBytes s.cfg buf s.dec).1
              response := some (.samples (decodeBytes s.cfg buf s.dec).2) } := by
  simp [execDecodeBuf, State.active, h, respond, setDecoder]

/-- R110 with a task active. -/
theorem execDecodeNib_active {s : State} (h : s.seqPhase ≠ .off) (n : Nibble) :
    execDecodeNib n s = raiseFault .decodeWhileActive s := by
  simp [execDecodeNib, State.active, h]

/-- R111 with a task active. -/
theorem execDecodeBuf_active {s : State} (h : s.seqPhase ≠ .off) (buf : Buffer) :
    execDecodeBuf buf s = raiseFault .decodeWhileActive s := by
  simp [execDecodeBuf, State.active, h]

/-- R133. -/
theorem execStop_eq (s : State) :
    execStop s =
      .next { s with
              playing := false
              paused := false
              queue := []
              trace := s.trace ++ [.write s.pin 0]
              dec := ⟨0, 0⟩
              abortReq := s.active || s.abortReq
              startPend := false
              response := none } := by
  cases h : s.active <;> simp [execStop, h, respond, setDecoder, sinkWrite, clearQueue]

end Sys2Proof.Machine
end

