-- ==== Sys2Proof/Laws/Config.lean ====
section
/-! SUPPORT. What it means that the parameters are well formed, and that the defaults are. -/

namespace Sys2Proof

theorem defaultConfig_wellFormed : defaultConfig.wellFormed = true := by decide

/-- R6, R91 (d), R93 (c): the facts about single parameters and entries that `wellFormed` checks. -/
theorem Config.wellFormed_facts {c : Config} (h : c.wellFormed = true) :
    c.stepTable[(0 : Fin 89)] = 7 ∧ c.indexTable[(15 : Fin 16)] = 8 ∧
    (1 ≤ c.resetRate ∧ c.resetRate ≤ 2147483647) ∧ c.resetVolume ≤ 255 ∧
    (∀ cap, c.queueCap = some cap → 1 ≤ cap) := by
  simp only [Config.wellFormed, stepTableOk, indexTableOk, Bool.and_eq_true] at h
  obtain ⟨⟨⟨⟨⟨_, h₁⟩, _, h₂⟩, h₃⟩, h₄⟩, h₅⟩ := h
  refine ⟨of_decide_eq_true h₁, of_decide_eq_true h₂, of_decide_eq_true h₃, of_decide_eq_true h₄, ?_⟩
  intro cap hc
  rw [hc] at h₅
  exact of_decide_eq_true h₅

/-- R91 (b). -/
theorem Config.stepTable_range {c : Config} (h : c.wellFormed = true) (k : Fin 89) :
    7 ≤ c.stepTable[k] ∧ c.stepTable[k] ≤ 32767 := by
  simp only [Config.wellFormed, stepTableOk, Bool.and_eq_true] at h
  have := List.all_eq_true.mp h.1.1.1.1.1.1 c.stepTable[k] (by simp)
  exact of_decide_eq_true this

end Sys2Proof
end

