-- ==== Sys2Proof/Laws/Decode.lean ====
section
/-! SUPPORT. The fields of a command byte, and the round trip of an `INT` operand through its 32-bit
pattern. -/

namespace Sys2Proof

@[simp] theorem opField_commandByte (arg4 op : Nibble) : opField (commandByte arg4 op) = op := by
  revert arg4 op; decide

@[simp] theorem arg4Field_commandByte (arg4 op : Nibble) : arg4Field (commandByte arg4 op) = arg4 := by
  revert arg4 op; decide

/-- R75: a command byte is its two fields. -/
theorem commandByte_fields (b : Byte) : commandByte (arg4Field b) (opField b) = b := by
  revert b; decide

theorem opField_toNat (b : Byte) : (opField b).toNat = b.toNat % 16 := by
  simp [opField, BitVec.extractLsb'_toNat]

theorem arg4Field_toNat (b : Byte) : (arg4Field b).toNat = b.toNat / 16 := by
  simp [arg4Field, BitVec.extractLsb'_toNat, Nat.shiftRight_eq_div_pow]
  omega

/-- R76: every 32-bit pattern is in range. -/
theorem intInRange_toInt (v : IntPattern) : intInRange v.toInt = true := by
  have h₁ := BitVec.le_toInt v
  have h₂ := BitVec.toInt_lt (x := v)
  norm_num at h₁ h₂
  exact decide_eq_true ⟨by simp only [intMin]; omega, by simp only [intMax]; omega⟩

/-- R76: an operand in range is what its pattern reads as. -/
theorem toInt_ofInt_of_inRange {v : Int} (h : intInRange v = true) :
    (BitVec.ofInt 32 v).toInt = v := by
  have hv : intMin ≤ v ∧ v ≤ intMax := of_decide_eq_true h
  simp only [intMin, intMax] at hv
  rw [BitVec.toInt_ofInt, Int.bmod_def]
  norm_num
  split <;> omega

@[simp] theorem needsZeroArg4_zero (i : Instr) : needsZeroArg4 0#4 i = .ok i := rfl

theorem needsZeroArg4_of_ne {a : Nibble} (h : a ≠ 0#4) (i : Instr) :
    needsZeroArg4 a i = .error .nonzeroArg4 := by
  simp [needsZeroArg4, h]

theorem needsZeroArg4_eq_ok {a : Nibble} {i j : Instr} :
    needsZeroArg4 a i = .ok j ↔ a = 0#4 ∧ i = j := by
  unfold needsZeroArg4
  split <;> simp_all

end Sys2Proof
end

