-- ==== Sys2Proof/Laws/PerInstr.lean ====
section
/-! SUPPORT. Statements made of every instruction, one lemma per constructor: an instruction's command
byte lies in its row of the opcode table. -/

namespace Sys2Proof.Laws.EncodesTableRow

/-- `mask` and `match` of an instruction's row of spec/opcode_table.json. -/
def row : Instr → Byte × Byte
  | .decodeBuf _ => (0xFF#8, 0x01#8)
  | .play _ => (0xFF#8, 0x02#8)
  | .queue _ => (0xFF#8, 0x03#8)
  | .stop => (0xFF#8, 0x04#8)
  | .pause => (0xFF#8, 0x05#8)
  | .resume => (0xFF#8, 0x06#8)
  | .setPin _ => (0xFF#8, 0x07#8)
  | .setRate _ => (0xFF#8, 0x08#8)
  | .setVol _ => (0xFF#8, 0x09#8)
  | .clearQueue => (0xFF#8, 0x0A#8)
  | .decodeNib _ => (0x0F#8, 0x0B#8)

/-- The instruction's command byte agrees with its row on every bit the row fixes. -/
def Statement (i : Instr) : Prop := (encode i).byte &&& (row i).1 = (row i).2

theorem decodeBuf (b : Buffer) : Statement (.decodeBuf b) := by
  simp [Statement, row, encode, bareCommand, commandByte]

theorem play (b : Buffer) : Statement (.play b) := by
  simp [Statement, row, encode, bareCommand, commandByte]

theorem queue (b : Buffer) : Statement (.queue b) := by
  simp [Statement, row, encode, bareCommand, commandByte]

theorem stop : Statement .stop := by simp [Statement, row, encode, bareCommand, commandByte]

theorem pause : Statement .pause := by simp [Statement, row, encode, bareCommand, commandByte]

theorem resume : Statement .resume := by simp [Statement, row, encode, bareCommand, commandByte]

theorem setPin (p : PinId) : Statement (.setPin p) := by
  simp [Statement, row, encode, bareCommand, commandByte]

theorem setRate (r : Int) : Statement (.setRate r) := by
  simp [Statement, row, encode, bareCommand, commandByte]

theorem setVol (v : Int) : Statement (.setVol v) := by
  simp [Statement, row, encode, bareCommand, commandByte]

theorem clearQueue : Statement .clearQueue := by
  simp [Statement, row, encode, bareCommand, commandByte]

theorem decodeNib (n : Nibble) : Statement (.decodeNib n) := by
  simp only [Statement, row, encode, bareCommand, commandByte]
  revert n
  decide

end Sys2Proof.Laws.EncodesTableRow
end

