-- ==== Sys2Proof/Laws/Sequencer.lean ====
section
/-! SUPPORT. The sequencer's procedures in the words of their rules, and all that its steps can do. -/

namespace Sys2Proof.Machine

/-- The continuation condition, spelt out (R161). -/
theorem continues_iff (s : State) :
    s.continues = true ↔ s.playing = true ∧ s.paused = false ∧ s.abortReq = false := by
  simp [State.continues, and_assoc]

theorem not_continues_iff (s : State) :
    s.continues = false ↔ s.playing = false ∨ s.paused = true ∨ s.abortReq = true := by
  cases hp : s.playing <;> cases hq : s.paused <;> cases ha : s.abortReq <;>
    simp [State.continues, hp, hq, ha]

/-- R162: the fetch procedure is the rule's pseudocode: abort check, Dequeue, end on `ABSENT`, Check. -/
theorem fetchBody_eq (s : State) :
    fetchBody s =
      if s.abortReq then .next (exitTask s)
      else match dequeue s with
        | (none, s) =>
          if s.playing && !s.paused then .next (exitTask { s with playing := false })
          else .next (exitTask s)
        | (some b, s) => check { s with curBuf := b, byteIdx := 0 } := by
  unfold fetchBody dequeue
  cases s.queue <;> rfl

/-! #### The fetch loop, case by case -/

/-- R162: the queue is empty; a Playing engine goes Idle and a Paused one stays. -/
theorem fetchLoop_nil {s : State} (ha : s.abortReq = false) :
    fetchLoop [] s = .next (exitTask { s with playing := s.playing && s.paused }) := by
  simp only [fetchLoop, ha]
  cases hp : s.playing <;> cases hq : s.paused <;> simp [exitTask, hp, hq]

/-- R162: STOP came before the task ran. -/
theorem fetchLoop_aborted {s : State} (ha : s.abortReq = true) (q : List Buffer) :
    fetchLoop q s = .next (exitTask s) := by
  cases q <;> simp [fetchLoop, ha]

/-- R163: the front buffer has a byte and the condition holds: its low nibble is played. -/
theorem fetchLoop_play {s : State} (hc : s.continues = true) (b : Byte) (bs : Buffer)
    (q : List Buffer) :
    fetchLoop ((b :: bs) :: q) s =
      .next { playCode (lowNibble b) { s with queue := q, curBuf := b :: bs, byteIdx := 0 } with
              seqPhase := .waitLo } := by
  have hc' := (continues_iff s).1 hc
  simp [fetchLoop, checkWith, hc', State.continues]

/-- R170: the position is overwritten before it is read, so the fetch loop does not depend on it. -/
theorem fetchLoop_position {s : State} (hc : s.continues = true) (q : List Buffer) (b : Buffer)
    (k : Nat) : fetchLoop q { s with curBuf := b, byteIdx := k } = fetchLoop q s := by
  have hc' := (continues_iff s).1 hc
  cases q with
  | nil => simp [fetchLoop, hc', exitTask]
  | cons x xs => simp [fetchLoop, hc']

/-- R170: an empty buffer is passed over while the condition holds. -/
theorem fetchLoop_empty {s : State} (hc : s.continues = true) (q : List Buffer) :
    fetchLoop ([] :: q) s = fetchLoop q { s with queue := q } := by
  have hc' := (continues_iff s).1 hc
  rw [← fetchLoop_position (s := { s with queue := q }) hc q [] 0]
  simp [fetchLoop, checkWith, hc', State.continues]

/-- R176: the condition fails without an abort: the front buffer is dropped and the task exits. -/
theorem fetchLoop_drop {s : State} (ha : s.abortReq = false) (hc : s.continues = false) (b : Buffer)
    (q : List Buffer) :
    fetchLoop (b :: q) s = .next (exitTask { s with queue := q }) := by
  have : State.continues { s with queue := q, curBuf := b, byteIdx := 0 } = false := hc
  unfold fetchLoop checkWith
  rw [if_neg (by simp [ha])]
  simp only [this]
  split <;> simp [exitTask]

/-! #### The fetch procedure, case by case -/

theorem fetchBody_nil {s : State} (ha : s.abortReq = false) (hq : s.queue = []) :
    fetchBody s = .next (exitTask { s with playing := s.playing && s.paused }) := by
  have := fetchLoop_nil ha
  rwa [← hq] at this

theorem fetchBody_aborted {s : State} (ha : s.abortReq = true) : fetchBody s = .next (exitTask s) :=
  fetchLoop_aborted ha _

theorem fetchBody_play {s : State} (hc : s.continues = true) {b : Byte} {bs : Buffer}
    {q : List Buffer} (hq : s.queue = (b :: bs) :: q) :
    fetchBody s =
      .next { playCode (lowNibble b) { s with queue := q, curBuf := b :: bs, byteIdx := 0 } with
              seqPhase := .waitLo } := by
  have := fetchLoop_play hc b bs q
  rwa [← hq] at this

theorem fetchBody_empty {s : State} (hc : s.continues = true) {q : List Buffer}
    (hq : s.queue = [] :: q) : fetchBody s = fetchBody { s with queue := q } := by
  have := fetchLoop_empty hc q
  rwa [← hq] at this

theorem fetchBody_drop {s : State} (ha : s.abortReq = false) (hc : s.continues = false) {b : Buffer}
    {q : List Buffer} (hq : s.queue = b :: q) :
    fetchBody s = .next (exitTask { s with queue := q }) := by
  have := fetchLoop_drop ha hc b q
  rwa [← hq] at this

/-! #### What the procedures can do -/

/-- R163: everything one check of the byte at the head can do, given what continuing does. -/
theorem checkWith_cases {fetch : State → Result} {s t : State} (h : checkWith fetch s = .next t) :
    (s.continues = false ∧ t = exitTask s) ∨
    (s.continues = true ∧ s.byteIdx = s.curBuf.length ∧ fetch s = .next t) ∨
    (s.continues = true ∧ ∃ b, s.curBuf[s.byteIdx]? = some b ∧
      t = { playCode (lowNibble b) s with seqPhase := .waitLo }) := by
  unfold checkWith at h
  split at h
  · next he =>
    split at h
    · next hc => exact .inr (.inl ⟨hc, he, h⟩)
    · next hc => exact .inl ⟨by simpa using hc, by simpa using h.symm⟩
  · split at h
    · next hc =>
      split at h
      · next b hb => exact .inr (.inr ⟨hc, b, hb, by simpa using h.symm⟩)
      · cases h
    · next hc => exact .inl ⟨by simpa using hc, by simpa using h.symm⟩

/-- R162, R163, R170: everything the fetch loop can do on a list of buffers: an aborted task exits; a
task whose condition fails exits, having dropped the front buffer if there is one; a Playing engine runs
dry, or plays the first byte of the first buffer that is not empty. -/
theorem fetchLoop_cases {q : List Buffer} {s t : State} (h : fetchLoop q s = .next t) :
    (s.abortReq = true ∧ t = exitTask s) ∨
    (s.abortReq = false ∧ s.continues = false ∧ q = [] ∧ t = exitTask s) ∨
    (s.abortReq = false ∧ s.continues = false ∧ ∃ b rest, q = b :: rest ∧
      t = exitTask { s with queue := rest, curBuf := b, byteIdx := 0 }) ∨
    (s.continues = true ∧ (∀ b ∈ q, b = []) ∧
      t = exitTask { s with queue := [], playing := false }) ∨
    (s.continues = true ∧ ∃ k b bs rest, q = List.replicate k [] ++ (b :: bs) :: rest ∧
      t = { playCode (lowNibble b) { s with queue := rest, curBuf := b :: bs, byteIdx := 0 } with
            seqPhase := .waitLo }) ∨
    (q = [] ∧ s.continues = true ∧ t = exitTask { s with playing := false }) := by
  induction q generalizing s with
  | nil =>
    unfold fetchLoop at h
    split at h
    · next ha => exact .inl ⟨ha, by simpa using h.symm⟩
    · next ha =>
      have ha' : s.abortReq = false := by simpa using ha
      split at h
      · next hp =>
        refine .inr (.inr (.inr (.inr (.inr ⟨rfl, ?_, by simpa using h.symm⟩))))
        simpa [State.continues, ha'] using hp
      · next hp =>
        refine .inr (.inl ⟨ha', ?_, rfl, by simpa using h.symm⟩)
        simpa [State.continues, ha'] using hp
  | cons b rest ih =>
    unfold fetchLoop at h
    split at h
    · next ha => exact .inl ⟨ha, by simpa using h.symm⟩
    · next ha =>
      have ha' : s.abortReq = false := by simpa using ha
      rcases checkWith_cases h with ⟨hc, rfl⟩ | ⟨hc, he, hf⟩ | ⟨hc, b', hb, rfl⟩
      · exact .inr (.inr (.inl ⟨ha', hc, b, rest, rfl, rfl⟩))
      · have hb : b = [] := List.length_eq_zero_iff.mp he.symm
        subst hb
        have hc' : s.continues = true := hc
        rcases ih hf with ⟨h1, _⟩ | ⟨_, h1, _⟩ | ⟨_, h1, _⟩ | ⟨_, h1, rfl⟩ |
          ⟨_, k, c, cs, r, rfl, rfl⟩ | ⟨rfl, _, rfl⟩
        · rw [show s.abortReq = true from h1] at ha'; cases ha'
        · rw [hc] at h1; cases h1
        · rw [hc] at h1; cases h1
        · exact .inr (.inr (.inr (.inl ⟨hc', by simpa using h1, rfl⟩)))
        · exact .inr (.inr (.inr (.inr (.inl ⟨hc', k + 1, c, cs, r, rfl, rfl⟩))))
        · exact .inr (.inr (.inr (.inl ⟨hc', by simp, rfl⟩)))
      · have hb' : b[0]? = some b' := hb
        cases b with
        | nil => simp at hb'
        | cons x xs =>
          obtain rfl : x = b' := by simpa using hb'
          exact .inr (.inr (.inr (.inr (.inl ⟨hc, 0, x, xs, rest, rfl, rfl⟩))))

/-- R162, R170: everything the fetch procedure can do. -/
theorem fetchBody_cases {s t : State} (h : fetchBody s = .next t) :
    (s.abortReq = true ∧ t = exitTask s) ∨
    (s.abortReq = false ∧ s.continues = false ∧ s.queue = [] ∧ t = exitTask s) ∨
    (s.abortReq = false ∧ s.continues = false ∧ ∃ b rest, s.queue = b :: rest ∧
      t = exitTask { s with queue := rest, curBuf := b, byteIdx := 0 }) ∨
    (s.continues = true ∧ (∀ b ∈ s.queue, b = []) ∧
      t = exitTask { s with queue := [], playing := false }) ∨
    (s.continues = true ∧ ∃ k b bs rest, s.queue = List.replicate k [] ++ (b :: bs) :: rest ∧
      t = { playCode (lowNibble b) { s with queue := rest, curBuf := b :: bs, byteIdx := 0 } with
            seqPhase := .waitLo }) := by
  rcases fetchLoop_cases h with h | h | h | h | h | ⟨hq, hc, rfl⟩
  · exact .inl h
  · exact .inr (.inl h)
  · exact .inr (.inr (.inl h))
  · exact .inr (.inr (.inr (.inl h)))
  · exact .inr (.inr (.inr (.inr h)))
  · refine .inr (.inr (.inr (.inl ⟨hc, by simp [hq], ?_⟩)))
    simp [exitTask, hq]

/-- The fetch procedure always ends in a next state: R196, it raises nothing, and no position is read
outside a buffer. -/
theorem fetchLoop_next (q : List Buffer) (s : State) : ∃ t, fetchLoop q s = .next t := by
  induction q generalizing s with
  | nil => unfold fetchLoop; split <;> [exact ⟨_, rfl⟩; (split <;> exact ⟨_, rfl⟩)]
  | cons b rest ih =>
    unfold fetchLoop checkWith
    split
    · exact ⟨_, rfl⟩
    · split
      · split
        · exact ih _
        · exact ⟨_, rfl⟩
      · split
        · cases b with
          | nil => contradiction
          | cons x xs => exact ⟨_, rfl⟩
        · exact ⟨_, rfl⟩

theorem fetchBody_next (s : State) : ∃ t, fetchBody s = .next t := fetchLoop_next _ _

/-- R163: the check answers a next state wherever `BYTE_IDX` is in its legal range. -/
theorem check_next {s : State} (h : s.byteIdx ≤ s.curBuf.length) : ∃ t, check s = .next t := by
  unfold check checkWith
  split
  · split
    · exact fetchBody_next s
    · exact ⟨_, rfl⟩
  · next he =>
    split
    · rw [List.getElem?_eq_getElem (by omega)]; exact ⟨_, rfl⟩
    · exact ⟨_, rfl⟩

/-- R168, R163: everything SEQ_HI_DONE can do. -/
theorem seqHiDone_cases {s t : State} (h : seqHiDone s = .next t) :
    (s.continues = false ∧ t = exitTask s) ∨
    (s.continues = true ∧ s.byteIdx + 1 = s.curBuf.length ∧
      fetchBody { s with byteIdx := s.byteIdx + 1 } = .next t) ∨
    (s.continues = true ∧ ∃ b, s.curBuf[s.byteIdx + 1]? = some b ∧
      t = { playCode (lowNibble b) { s with byteIdx := s.byteIdx + 1 } with seqPhase := .waitLo }) :=
  checkWith_cases h

/-- A task whose condition holds is not told by its phase how to fetch: every outcome sets the phase. -/
theorem fetchLoop_phase {s : State} (hc : s.continues = true) (q : List Buffer) (ph : SeqPhase) :
    fetchLoop q { s with seqPhase := ph } = fetchLoop q s := by
  have hc' := (continues_iff s).1 hc
  induction q generalizing s with
  | nil =>
    rw [fetchLoop_nil hc'.2.2, fetchLoop_nil (s := { s with seqPhase := ph }) hc'.2.2]
    simp [exitTask]
  | cons x xs ih =>
    cases x with
    | nil =>
      rw [fetchLoop_empty hc, fetchLoop_empty (s := { s with seqPhase := ph }) hc]
      exact ih (s := { s with queue := xs }) hc hc'
    | cons y ys =>
      rw [fetchLoop_play hc, fetchLoop_play (s := { s with seqPhase := ph }) hc]
      simp [playCode_eq]

theorem fetchBody_phase {s : State} (hc : s.continues = true) (ph : SeqPhase) :
    fetchBody { s with seqPhase := ph } = fetchBody s :=
  fetchLoop_phase hc s.queue ph

/-- R172: when the condition fails, SEQ_HI_DONE ends the task. -/
theorem seqHiDone_exit {s : State} (hc : s.continues = false) : seqHiDone s = .next (exitTask s) := by
  have : State.continues { s with byteIdx := s.byteIdx + 1 } = false := hc
  simp only [seqHiDone, check, checkWith, this]
  split <;> simp [exitTask]

/-- R170: at the end of the buffer, while the condition holds, SEQ_HI_DONE fetches in the same step. -/
theorem seqHiDone_endOfBuffer {s : State} (hc : s.continues = true)
    (he : s.byteIdx + 1 = s.curBuf.length) : seqHiDone s = fetchBody s := by
  have hc' : State.continues { s with byteIdx := s.byteIdx + 1 } = true := hc
  unfold seqHiDone check checkWith
  rw [if_pos he, if_pos hc']
  exact fetchLoop_position hc s.queue s.curBuf _

/-- R168, R163: inside the buffer, while the condition holds, SEQ_HI_DONE plays the next byte. -/
theorem seqHiDone_nextByte {s : State} (hc : s.continues = true) {b : Byte}
    (hb : s.curBuf[s.byteIdx + 1]? = some b) :
    seqHiDone s =
      .next { playCode (lowNibble b) { s with byteIdx := s.byteIdx + 1 } with seqPhase := .waitLo } := by
  have hc' : State.continues { s with byteIdx := s.byteIdx + 1 } = true := hc
  have hl : s.byteIdx + 1 ≠ s.curBuf.length := by
    have := (List.getElem?_eq_some_iff.1 hb).1
    omega
  simp [seqHiDone, check, checkWith, hc', hl, hb]

/-- R167: SEQ_LO_DONE plays the high nibble of the current byte. -/
theorem seqLoDone_eq {s : State} {b : Byte} (hb : s.curBuf[s.byteIdx]? = some b) :
    seqLoDone s = .next { playCode (highNibble b) s with seqPhase := .waitHi } := by
  simp [seqLoDone, hb]

/-- R167: everything SEQ_LO_DONE can do. -/
theorem seqLoDone_cases {s t : State} (h : seqLoDone s = .next t) :
    ∃ b, s.curBuf[s.byteIdx]? = some b ∧
      t = { playCode (highNibble b) s with seqPhase := .waitHi } := by
  unfold seqLoDone at h
  split at h
  · next b hb => exact ⟨b, hb, by simpa using h.symm⟩
  · cases h

end Sys2Proof.Machine
end

