-- ==== Sys2Proof/Laws/Step.lean ====
section
/-! SUPPORT. What one step can do, said once: by the input it takes, and by the command it runs. -/

namespace Sys2Proof.Machine

theorem step_of_nil {s : State} (h : s.inputs = []) : step s = seqTurn s := by
  unfold step; rw [h]

theorem step_of_cons {s : State} {i : Input} {rest : List Input} (h : s.inputs = i :: rest) :
    step s = runInput i { s with inputs := rest } := by
  unfold step; rw [h]

theorem step_of_sequencer {s : State} {rest : List Input} (h : s.inputs = .sequencer :: rest) :
    step s = seqTurn { s with inputs := rest } :=
  step_of_cons h

theorem step_sequencer (s : State) (rest : List Input) :
    step { s with inputs := .sequencer :: rest } = seqTurn { s with inputs := rest } := rfl

theorem step_command (s : State) (c : Command) (rest : List Input) :
    step { s with inputs := .command c :: rest } = runCommand c { s with inputs := rest } := rfl

/-- R160: an offered turn of the sequencer, phase by phase. -/
theorem step_fetch {s : State} (h : s.seqPhase = .fetch) (rest : List Input) :
    step { s with inputs := .sequencer :: rest } = fetchBody { s with inputs := rest } := by
  rw [step_sequencer]; unfold seqTurn; rw [h]; rfl

theorem step_waitLo {s : State} (h : s.seqPhase = .waitLo) (rest : List Input) :
    step { s with inputs := .sequencer :: rest } = seqLoDone { s with inputs := rest } := by
  rw [step_sequencer]; unfold seqTurn; rw [h]

theorem step_waitHi {s : State} (h : s.seqPhase = .waitHi) (rest : List Input) :
    step { s with inputs := .sequencer :: rest } = seqHiDone { s with inputs := rest } := by
  rw [step_sequencer]; unfold seqTurn; rw [h]

theorem step_off {s : State} (h : s.seqPhase = .off) (rest : List Input) :
    step { s with inputs := .sequencer :: rest } = .next { s with inputs := rest } := by
  rw [step_sequencer]; unfold seqTurn; rw [h]

theorem seqTurn_of_fetch {s : State} (h : s.seqPhase = .fetch) : seqTurn s = fetchBody s := by
  unfold seqTurn; rw [h]; rfl

theorem seqTurn_of_waitLo {s : State} (h : s.seqPhase = .waitLo) : seqTurn s = seqLoDone s := by
  unfold seqTurn; rw [h]

theorem seqTurn_of_waitHi {s : State} (h : s.seqPhase = .waitHi) : seqTurn s = seqHiDone s := by
  unfold seqTurn; rw [h]

theorem seqTurn_of_off {s : State} (h : s.seqPhase = .off) : seqTurn s = .next s := by
  unfold seqTurn; rw [h]

/-- R59: everything a step can be: a turn of the sequencer, a command, an illegal command, a reset. -/
theorem step_cases {s t : State} (h : step s = .next t) :
    (s.inputs = [] ∧ seqTurn s = .next t) ∨
    (∃ rest, s.inputs = .sequencer :: rest ∧ seqTurn { s with inputs := rest } = .next t) ∨
    (∃ c rest i, s.inputs = .command c :: rest ∧ decode c = .ok i ∧
      exec i { s with inputs := rest } = .next t) ∨
    (∃ c rest e, s.inputs = .command c :: rest ∧ decode c = .error e ∧
      t = { s with inputs := rest, faultReg := s.faultReg ||| 1#4, response := none }) ∨
    (∃ rest, s.inputs = .reset :: rest ∧ t = resetBlock { s with inputs := rest }) := by
  match hi : s.inputs with
  | [] => exact .inl ⟨rfl, by rwa [step_of_nil hi] at h⟩
  | .sequencer :: rest => exact .inr (.inl ⟨rest, rfl, by rwa [step_of_cons hi] at h⟩)
  | .reset :: rest =>
    rw [step_of_cons hi] at h
    exact .inr (.inr (.inr (.inr ⟨rest, rfl, by simpa [runInput] using h.symm⟩)))
  | .command c :: rest =>
    rw [step_of_cons hi] at h
    simp only [runInput, runCommand] at h
    split at h
    · next i hd => exact .inr (.inr (.inl ⟨c, rest, i, rfl, hd, h⟩))
    · next e hd =>
      refine .inr (.inr (.inr (.inl ⟨c, rest, e, rfl, hd, ?_⟩)))
      rw [raiseFault_eq] at h
      simpa [Cause.bit, Cause.number] using h.symm

/-- R160: everything a turn of the sequencer can be. -/
theorem seqTurn_cases {s t : State} (h : seqTurn s = .next t) :
    (s.seqPhase = .off ∧ t = s) ∨ (s.seqPhase = .fetch ∧ fetchBody s = .next t) ∨
    (s.seqPhase = .waitLo ∧ seqLoDone s = .next t) ∨
    (s.seqPhase = .waitHi ∧ seqHiDone s = .next t) := by
  unfold seqTurn at h
  split at h <;> simp_all [seqFetch, eq_comm]

/-- Every command answers a next state, in every state (R191: a fault is recorded and the block goes
on). -/
theorem exec_next (i : Instr) (s : State) : ∃ t, exec i s = .next t := by
  cases i <;>
    simp only [exec, execDecodeBuf, execPlay, execQueue, execStop, execPause, execResume, execSetPin,
      execSetRate, execSetVol, execClearQueue, execDecodeNib, enqueueAndStart, raiseFault, finish_eq,
      answer_eq] <;>
    (repeat' split) <;> exact ⟨_, rfl⟩

/-- No input is touched by a command. -/
theorem exec_inputs {i : Instr} {s t : State} (h : exec i s = .next t) : t.inputs = s.inputs := by
  cases i <;>
    simp only [exec, execDecodeBuf, execPlay, execQueue, execStop, execPause, execResume, execSetPin,
      execSetRate, execSetVol, execClearQueue, execDecodeNib, enqueueAndStart, raiseFault, finish_eq,
      answer_eq] at h <;>
    (repeat' split at h) <;> cases h <;> simp

/-- R162, R163: everything a fetch can do, in one form: it ends the task, or plays one code. -/
theorem fetchBody_ends_or_plays {s t : State} (h : fetchBody s = .next t) :
    (∃ q p, q <:+ s.queue ∧ (p = s.playing ∨ p = false ∧ q = [] ∧ s.continues = true) ∧
      t = exitTask { s with queue := q, playing := p }) ∨
    (∃ n q cb bi ph, q <:+ s.queue ∧
      t = { playCode n { s with queue := q, curBuf := cb, byteIdx := bi } with seqPhase := ph }) := by
  rcases fetchBody_cases h with ⟨-, rfl⟩ | ⟨-, -, -, rfl⟩ | ⟨-, -, b, rest, hq, rfl⟩ |
    ⟨hc, -, rfl⟩ | ⟨-, k, b, bs, rest, hq, rfl⟩
  · exact .inl ⟨s.queue, s.playing, List.suffix_refl _, .inl rfl, rfl⟩
  · exact .inl ⟨s.queue, s.playing, List.suffix_refl _, .inl rfl, rfl⟩
  · exact .inl ⟨rest, s.playing, hq ▸ List.suffix_cons _ _, .inl rfl, rfl⟩
  · exact .inl ⟨[], false, List.nil_suffix, .inr ⟨rfl, rfl, hc⟩, rfl⟩
  · exact .inr ⟨_, rest, _, _, _, hq ▸ (List.suffix_cons _ _).trans (List.suffix_append _ _), rfl⟩

/-- R160: everything a turn of the sequencer can do, in one form: nothing while `OFF`; else it ends the
task, perhaps because a Playing engine ran dry, or plays one code. -/
theorem seqTurn_ends_or_plays {s t : State} (h : seqTurn s = .next t) :
    (s.seqPhase = .off ∧ t = s) ∨
    (s.seqPhase ≠ .off ∧ ∃ q p, q <:+ s.queue ∧
      (p = s.playing ∨ p = false ∧ q = [] ∧ s.continues = true ∧
        (s.seqPhase = .fetch ∨ s.seqPhase = .waitHi)) ∧
      t = exitTask { s with queue := q, playing := p }) ∨
    (s.seqPhase ≠ .off ∧ ∃ n q cb bi ph, q <:+ s.queue ∧
      t = { playCode n { s with queue := q, curBuf := cb, byteIdx := bi } with seqPhase := ph }) := by
  rcases seqTurn_cases h with h | ⟨hp, h⟩ | ⟨hp, h⟩ | ⟨hp, h⟩
  · exact .inl h
  · rcases fetchBody_ends_or_plays h with ⟨q, p, h₁, h₂, h₃⟩ | h
    · exact .inr (.inl ⟨by simp [hp], q, p, h₁,
        h₂.imp id fun h => ⟨h.1, h.2.1, h.2.2, .inl hp⟩, h₃⟩)
    · exact .inr (.inr ⟨by simp [hp], h⟩)
  · obtain ⟨b, -, rfl⟩ := seqLoDone_cases h
    exact .inr (.inr ⟨by simp [hp], _, s.queue, s.curBuf, s.byteIdx, _, List.suffix_refl _, rfl⟩)
  · rcases seqHiDone_cases h with ⟨-, rfl⟩ | ⟨hc, -, h'⟩ | ⟨-, b, -, rfl⟩
    · exact .inr (.inl ⟨by simp [hp], s.queue, s.playing, List.suffix_refl _, .inl rfl, rfl⟩)
    · have hf : fetchBody { s with byteIdx := s.byteIdx + 1 } = fetchBody s :=
        fetchLoop_position hc s.queue s.curBuf _
      rw [hf] at h'
      rcases fetchBody_ends_or_plays h' with ⟨q, p, h₁, h₂, h₃⟩ | h
      · exact .inr (.inl ⟨by simp [hp], q, p, h₁,
          h₂.imp id fun h => ⟨h.1, h.2.1, h.2.2, .inr hp⟩, h₃⟩)
      · exact .inr (.inr ⟨by simp [hp], h⟩)
    · exact .inr (.inr ⟨by simp [hp], _, s.queue, s.curBuf, _, _, List.suffix_refl _, rfl⟩)

/-- R191: a command faults, with the fault's record its only effect, or it leaves `FAULT` alone. -/
theorem exec_faults_or_keeps {i : Instr} {s t : State} (h : exec i s = .next t) :
    (∃ c : Cause, t = { s with faultReg := s.faultReg ||| c.bit, response := none }) ∨
    t.faultReg = s.faultReg := by
  cases i <;>
    simp only [exec, execDecodeBuf, execPlay, execQueue, execStop, execPause, execResume, execSetPin,
      execSetRate, execSetVol, execClearQueue, execDecodeNib, enqueueAndStart, finish_eq,
      answer_eq, raiseFault_eq] at h <;>
    (repeat' split at h) <;> obtain rfl := Host.Outcome.next.inj h <;>
    first
      | exact .inl ⟨_, rfl⟩
      | (right; simp)

end Sys2Proof.Machine
end

