-- ==== Sys2Proof/Laws/Run.lean ====
section
/-! SUPPORT. Runs of the host's machine, one step at a time, and the induction over a run said once. -/

namespace Sys2Proof.Machine

theorem host_run_succ (M : Host.Core) (k : Nat) (s : M.State) {t : M.State} (h : M.step s = .next t) :
    M.run (k + 1) s = M.run k t := by
  simp only [Host.Core.run, h]

theorem run_zero (s : State) : Sys2Proof.core.run 0 s = .next s := Host.Core.run.eq_1 _ _

theorem run_succ (k : Nat) {s t : State} (h : step s = .next t) :
    Sys2Proof.core.run (k + 1) s = Sys2Proof.core.run k t :=
  host_run_succ Sys2Proof.core k s h

/-- What one step keeps, with a next state, holds at the end of every run. -/
theorem run_keeps {P : State → Prop} (hstep : ∀ s, P s → ∃ t, step s = .next t ∧ P t) (k : Nat)
    {s : State} (hs : P s) : ∃ t : State, Sys2Proof.core.run k s = .next t ∧ P t := by
  induction k generalizing s with
  | zero => exact ⟨s, run_zero s, hs⟩
  | succ k ih =>
    obtain ⟨t, ht, hPt⟩ := hstep s hs
    obtain ⟨u, hu, hPu⟩ := ih hPt
    exact ⟨u, (run_succ k ht).trans hu, hPu⟩

end Sys2Proof.Machine
end

