-- ==== Sys2Proof/Tests/Slice0.lean ====
section
/-! SUPPORT. Tests. Every expected value is written from spec/: the rule or the vector of
95_test_vectors.md is named beside it. Then, for each statement with hypotheses, a concrete state and
operands that meet them. -/

namespace Sys2Proof.Tests

open Sys2Proof.Machine

/-- The next state, if there is one. -/
def after (r : Result) : Option State :=
  match r with
  | .next t => some t
  | .fault _ => none
  | .refused _ => none

/-- What a test looks at after a step. -/
def look {α : Type} (f : State → α) (r : Result) : Option α := (after r).map f

/-- The reset state with the given decoder state. -/
def decoderAt (p : Int) (i : Fin 89) : State := { State.reset with dec := ⟨p, i⟩ }

/-- P2 line 5: a session is scheduled on two buffers. -/
def scheduled : State :=
  { State.reset with playing := true, seqPhase := .fetch, queue := [[0x77#8], [0x1F#8]] }

/-- P2 line 6: the low-nibble wait of the first buffer. -/
def lowWait : State :=
  { State.reset with
    dec := ⟨11, 8⟩, playing := true, seqPhase := .waitLo, curBuf := [0x77#8], queue := [[0x1F#8]]
    trace := [.write ⟨0⟩ 138, .wait 125] }

/-- P2 line 7: the high-nibble wait of the first buffer. -/
def highWait : State :=
  { lowWait with
    dec := ⟨41, 16⟩, seqPhase := .waitHi
    trace := [.write ⟨0⟩ 138, .wait 125, .write ⟨0⟩ 168, .wait 125] }

/-- P3 line 9: paused, with no task. -/
def pausedOff : State :=
  { State.reset with dec := ⟨41, 16⟩, playing := true, paused := true, queue := [[0x1F#8]] }

/-- A block whose bounded queue of two buffers is full (P9's capacity). -/
def fullQueue : State :=
  { scheduled with cfg := { defaultConfig with queueCap := some 2 } }

/-! #### Well-formedness: each check refuses an ill-formed term -/

/-- R76: `INT` ends at 2^31-1. -/
theorem test_setRate_too_large_refused : (Instr.setRate 2147483648).wellFormed = false := by decide
theorem test_setRate_largest_accepted : (Instr.setRate 2147483647).wellFormed = true := by decide
/-- R76: `INT` begins at -2^31. -/
theorem test_setVol_too_small_refused : (Instr.setVol (-2147483649)).wellFormed = false := by decide
theorem test_setVol_smallest_accepted : (Instr.setVol (-2147483648)).wellFormed = true := by decide
/-- R91: entry 0 is 7. -/
theorem test_stepTable_entry_zero_refused : stepTableOk (Vector.replicate 89 8) = false := by decide
/-- R91: no entry is under 7. -/
theorem test_stepTable_range_refused : stepTableOk (defaultStepTable.set 1 6) = false := by decide
/-- R91: the entries rise. -/
theorem test_stepTable_order_refused : stepTableOk (defaultStepTable.set 88 30000 |>.set 87 31000) = false := by
  decide
/-- R93: 3 is no entry. -/
theorem test_indexTable_value_refused : indexTableOk (defaultIndexTable.set 0 3) = false := by decide
/-- R93: entry 15 is 8. -/
theorem test_indexTable_last_refused : indexTableOk (defaultIndexTable.set 15 6) = false := by decide
/-- R6: `RESET_RATE >= 1`. -/
theorem test_config_rate_refused :
    Config.wellFormed { defaultConfig with resetRate := 0 } = false := by decide
/-- R6: `RESET_VOLUME` is in 0..255. -/
theorem test_config_volume_refused :
    Config.wellFormed { defaultConfig with resetVolume := 256 } = false := by decide
/-- R6: a finite `QUEUE_CAP` is at least 1. -/
theorem test_config_cap_refused :
    Config.wellFormed { defaultConfig with queueCap := some 0 } = false := by decide
theorem test_config_accepted :
    Config.wellFormed { defaultConfig with queueCap := some 1 } = true := by decide

/-! #### Decoding: T-E1, the byte of each row of R78 written out -/

theorem test_decode_decodeBuf : decodeTableWord 8 0b00000001 = some (.decodeBuf []) := by decide
theorem test_decode_play : decodeTableWord 8 0b00000010 = some (.play []) := by decide
theorem test_decode_queue : decodeTableWord 8 0b00000011 = some (.queue []) := by decide
theorem test_decode_stop : decodeTableWord 8 0b00000100 = some .stop := by decide
theorem test_decode_pause : decodeTableWord 8 0b00000101 = some .pause := by decide
theorem test_decode_resume : decodeTableWord 8 0b00000110 = some .resume := by decide
theorem test_decode_setPin : decodeTableWord 8 0b00000111 = some (.setPin ⟨0⟩) := by decide
theorem test_decode_setRate : decodeTableWord 8 0b00001000 = some (.setRate 0) := by decide
theorem test_decode_setVol : decodeTableWord 8 0b00001001 = some (.setVol 0) := by decide
theorem test_decode_clearQueue : decodeTableWord 8 0b00001010 = some .clearQueue := by decide
theorem test_decode_decodeNib_7 : decodeTableWord 8 0b01111011 = some (.decodeNib 0x7#4) := by decide
theorem test_decode_decodeNib_F : decodeTableWord 8 0b11111011 = some (.decodeNib 0xF#4) := by decide
/-- R80: an `INT` operand is sign-extended. -/
theorem test_decode_setVol_negative :
    decode ⟨0x09#8, [], 0xFFFFFFFB#32, ⟨0⟩⟩ = .ok (.setVol (-5)) := by decide
/-- T-E1: reserved opcodes, and a nonzero `ARG4` off opcode 0xB. -/
theorem test_decode_reserved : ∀ b ∈ [0x00#8, 0x0C#8, 0x0F#8, 0xFF#8],
    decode (bareCommand b) = .error .reservedOpcode := by decide
theorem test_decode_nonzero_arg4 : ∀ b ∈ [0x14#8, 0xF2#8],
    decode (bareCommand b) = .error .nonzeroArg4 := by decide

/-! #### The decode commands -/

/-- T-D1, rows 0x7 and 0xD. -/
theorem test_decodeNib_magnitude :
    look (fun t => (t.dec, t.response)) (exec (.decodeNib 0x7#4) State.reset) =
      some (⟨11, 8⟩, some (.sample 139)) ∧
    look (fun t => (t.dec, t.response)) (exec (.decodeNib 0xD#4) State.reset) =
      some (⟨-8, 4⟩, some (.sample 120)) := by decide
/-- T-D2.11, T-D2.17, T-D2.20: saturation, and the threshold. -/
theorem test_decodeNib_saturation :
    look (fun t => t.dec) (exec (.decodeNib 0xB#4) (decoderAt (-100) 20)) = some ⟨-128, 19⟩ ∧
    look (fun t => t.dec) (exec (.decodeNib 0x4#4) (decoderAt (-128) 35)) = some ⟨107, 37⟩ ∧
    look (fun t => t.dec) (exec (.decodeNib 0x7#4) (decoderAt (-128) 88)) = some ⟨127, 88⟩ := by decide
/-- T-B5. -/
theorem test_decodeBuf :
    look (fun t => (t.dec, t.response)) (exec (.decodeBuf [0xF7#8, 0x7F#8, 0x08#8]) State.reset) =
      some (⟨52, 30⟩, some (.samples [139, 109, 46, 182, 163, 180])) := by decide
/-- T-D3. -/
theorem test_decodeBuf_while_active :
    look (fun t => (t.dec, t.response, t.faultReg)) (exec (.decodeBuf [0x77#8]) lowWait) =
      some (⟨11, 8⟩, none, 0b0100#4) := by decide

/-! #### The queue and control commands -/

/-- T-S1, first row. -/
theorem test_play_when_idle :
    look (fun t => (t.engine, t.seqPhase, t.queue)) (exec (.play [0x77#8]) State.reset) =
      some (.playing, .fetch, [[0x77#8]]) := by decide
/-- T-S3: while a stopped task drains, the start is deferred (R130). -/
theorem test_play_while_draining :
    look (fun t => (t.engine, t.seqPhase, t.startPend))
      (exec (.play [0x12#8]) { highWait with playing := false, abortReq := true }) =
      some (.playing, .waitHi, true) := by decide
/-- T-S1: Paused, `OFF`. -/
theorem test_queue_when_paused :
    look (fun t => (t.engine, t.seqPhase, t.queue)) (exec (.queue [0x12#8]) pausedOff) =
      some (.paused, .off, [[0x1F#8], [0x12#8]]) := by decide
/-- T-Q4: a third enqueue at capacity 2. -/
theorem test_queue_full :
    look (fun t => (t.queue, t.faultReg)) (exec (.queue [0x12#8]) fullQueue) =
      some ([[0x77#8], [0x1F#8]], 0b1000#4) := by decide
/-- T-S1: STOP with no task; no abort is requested (R28 (c)). -/
theorem test_stop_when_idle :
    look (fun t => (t.dec, t.abortReq, t.trace)) (exec .stop (decoderAt 7 2)) =
      some (⟨0, 0⟩, false, [.write ⟨0⟩ 0]) := by decide
/-- R133: STOP with a task in its high-nibble wait. -/
theorem test_stop_when_active :
    look (fun t => (t.engine, t.seqPhase, t.abortReq, t.queue)) (exec .stop highWait) =
      some (.idle, .waitHi, true, []) := by decide
/-- T-S1: PAUSE when Idle, and when Playing in `WAIT_LO`. -/
theorem test_pause :
    look (fun t => (t.engine, t.seqPhase)) (exec .pause State.reset) = some (.idle, .off) ∧
    look (fun t => (t.engine, t.seqPhase)) (exec .pause lowWait) = some (.paused, .waitLo) := by decide
/-- T-S1: RESUME when Paused with no task, and with one. -/
theorem test_resume :
    look (fun t => (t.engine, t.seqPhase)) (exec .resume pausedOff) = some (.playing, .fetch) ∧
    look (fun t => (t.engine, t.seqPhase)) (exec .resume { lowWait with paused := true }) =
      some (.playing, .waitLo) := by decide
/-- T-CF. -/
theorem test_setPin : look (fun t => t.pin) (exec (.setPin ⟨1⟩) lowWait) = some ⟨1⟩ := by decide
/-- T-CF: 0 faults, 1 does not. -/
theorem test_setRate :
    look (fun t => (t.rate, t.faultReg)) (exec (.setRate 0) State.reset) = some (8000, 0b0010#4) ∧
    look (fun t => (t.rate, t.faultReg)) (exec (.setRate 1) State.reset) = some (1, 0b0000#4) := by
  decide
/-- T-CF: 256 and -5 are clamped. -/
theorem test_setVol :
    look (fun t => t.vol) (exec (.setVol 256) State.reset) = some 255 ∧
    look (fun t => t.vol) (exec (.setVol (-5)) State.reset) = some 0 := by decide
/-- T-Q3: the buffer being played stays. -/
theorem test_clearQueue :
    look (fun t => (t.queue, t.curBuf, t.engine)) (exec .clearQueue lowWait) =
      some ([], [0x77#8], .playing) := by decide

/-! #### Steps -/

/-- P2 line 6. -/
theorem test_seqFetch :
    look (fun t => (t.dec, t.trace, t.seqPhase)) (step scheduled) =
      some (⟨11, 8⟩, [.write ⟨0⟩ 138, .wait 125], .waitLo) ∧
    look (fun t => (t.curBuf, t.byteIdx, t.queue)) (step scheduled) =
      some ([0x77#8], 0, [[0x1F#8]]) := by decide
/-- P2 line 7. -/
theorem test_seqLoDone :
    look (fun t => (t.dec, t.trace, t.seqPhase)) (step lowWait) =
      some (⟨41, 16⟩, [.write ⟨0⟩ 138, .wait 125, .write ⟨0⟩ 168, .wait 125], .waitHi) := by decide
/-- P2 line 8: the second buffer starts in the step that ends the first. -/
theorem test_seqHiDone :
    look (fun t => (t.dec, t.trace.drop 4, t.seqPhase)) (step highWait) =
      some (⟨-22, 24⟩, [.write ⟨0⟩ 105, .wait 125], .waitLo) ∧
    look (fun t => (t.curBuf, t.queue)) (step highWait) = some ([0x1F#8], []) := by decide
/-- T-S1, T-Q5: empty buffers pass in the same step, and an empty queue ends the session. -/
theorem test_seqFetch_empty_buffers :
    look (fun t => (t.engine, t.seqPhase, t.trace)) (step { scheduled with queue := [[], []] }) =
      some (.idle, .off, []) := by decide
/-- P7 (R176): PAUSE before the task runs drops the front buffer. -/
theorem test_seqFetch_paused :
    look (fun t => (t.engine, t.seqPhase, t.queue)) (step { scheduled with paused := true }) =
      some (.paused, .off, [[0x1F#8]]) := by decide
/-- T-E2: only `FAULT` bit 0. -/
theorem test_illegal_command :
    look (fun t => (t.rate, t.faultReg))
      (step { State.reset with inputs := [.command ⟨0x18#8, [], 0#32, ⟨0⟩⟩] }) =
      some (8000, 0b0001#4) := by decide
/-- R220: reset ends a task at once, and keeps no trace and no fault. -/
theorem test_reset_input :
    look (fun t => (t.seqPhase, t.trace, t.faultReg, t.engine))
      (step { lowWait with faultReg := 0xF#4, inputs := [.reset] }) = some (.off, [], 0#4, .idle) := by
  decide
/-- The host's question: the word of DECODE_NIB 0xF, placed at reset, is decoded and run by one step. -/
theorem test_withFetchWord :
    look (fun t => (t.dec, t.response)) (step (State.reset.withFetchWord 8 0xFB)) =
      some (⟨-11, 8⟩, some (.sample 117)) := by decide
/-- T-V, T-R: corners of the scaling and of the sample period. -/
theorem test_intensity_and_period :
    intensity 255 255 = 254 ∧ intensity 254 64 = 63 ∧ intensity 127 128 = 63 ∧
    samplePeriod 16000 = 62 ∧ samplePeriod 1000001 = 0 ∧ samplePeriod 3 = 333333 := by decide

/-! #### Witnesses: states and operands that meet the hypotheses of each statement -/

theorem reset_inv : State.reset.Inv := by
  constructor <;> decide

theorem scheduled_inv : scheduled.Inv := by
  constructor <;> decide

theorem lowWait_inv : lowWait.Inv := by
  constructor <;> decide

theorem highWait_inv : highWait.Inv := by
  constructor <;> decide

/-- A stopped task in its low-nibble wait: an invariant state with the condition failing. -/
def drainingLow : State := { lowWait with playing := false, abortReq := true, queue := [] }

theorem drainingLow_inv : drainingLow.Inv := by
  constructor <;> decide

theorem witness_DecodeOfEncodeIsInstruction :
    (Instr.setRate 2147483647).wellFormed = true ∧ (Instr.setVol (-2147483648)).wellFormed = true ∧
    (Instr.decodeNib 0xF#4).wellFormed = true ∧ (Instr.play [0x77#8]).wellFormed = true := by decide

theorem witness_EncodeOfDecodeIsCommandByte :
    decode ⟨0x08#8, [], 0x80000000#32, ⟨0⟩⟩ = .ok (.setRate (-2147483648)) := by decide

theorem witness_OpcodeMapIsAsListed : 0xC#4 ∈ [0x0#4, 0xC#4, 0xD#4, 0xE#4, 0xF#4] := by decide

theorem witness_StepRunsDecodedCommand :
    let s : State := { lowWait with inputs := [.command (bareCommand 0x04#8)] }
    s.inputs = .command (bareCommand 0x04#8) :: [] ∧ decode (bareCommand 0x04#8) = .ok .stop := by decide

/-- One byte for each way in which a byte is illegal. -/
theorem witness_ReservedByteOnlySetsFaultBitZero :
    (0x10#8).toNat % 16 = 0 ∧ 12 ≤ (0x0C#8).toNat % 16 ∧
    ((0x18#8).toNat % 16 ≠ 11 ∧ (0x18#8).toNat / 16 ≠ 0) := by decide

/-- Both forms of a turn, in each phase. -/
theorem witness_SequencerTurnIsStepOfPhase :
    (State.reset.inputs = [] ∧ State.reset.seqPhase = .off) ∧
    (∀ s ∈ [scheduled, lowWait, highWait], s.inputs = []) ∧
    scheduled.seqPhase = .fetch ∧ lowWait.seqPhase = .waitLo ∧ highWait.seqPhase = .waitHi ∧
    State.inputs { highWait with inputs := [.sequencer, .reset] } = .sequencer :: [.reset] := by decide

/-- For DecodeNibResult, DecodeBufAnswersTwoSamplesPerByte, DecodeBufIsNibblesInOrder,
DecodingIsStreamContinuous and DecodeAfterStopIsFresh: no task, Idle or Paused, and (for the step and
the magnitude of the first) the values of T-D1 row 0xF. -/
theorem witness_no_task :
    State.reset.seqPhase = .off ∧ pausedOff.seqPhase = .off ∧
    (State.reset.cfg.stepTable[State.reset.dec.sidx] : Nat) = 7 ∧
    (11 : Int) = 7 / 8 + (if (0xF#4).toNat % 2 = 1 then 7 / 4 else 0) +
      (if (0xF#4).toNat / 2 % 2 = 1 then 7 / 2 else 0) + (if (0xF#4).toNat / 4 % 2 = 1 then 7 else 0) := by
  decide

/-- The ends of the predictor's range for the second clause. -/
theorem witness_WorkedNibbleExamples :
    State.reset.cfg.wellFormed = true ∧ State.reset.seqPhase = .off ∧ State.reset.dec = ⟨0, 0⟩ ∧
    (decoderAt (-128) 0).dec = ⟨-128, 0⟩ ∧ (decoderAt 127 0).dec = ⟨127, 0⟩ := by decide

theorem witness_DecodingDependsOnDecoderStateAlone :
    let s := decoderAt 41 16
    s.seqPhase = .off ∧ pausedOff.seqPhase = .off ∧ s.cfg.stepTable = pausedOff.cfg.stepTable ∧
    s.cfg.indexTable = pausedOff.cfg.indexTable ∧ s.dec = pausedOff.dec ∧ s ≠ pausedOff := by decide

/-- T-D2.16 and T-D2.18, at the threshold. -/
theorem witness_LargeStepSaturatesPredictor :
    (∀ s ∈ [decoderAt (-128) 36, decoderAt 127 36], s.seqPhase = .off ∧
      s.cfg.stepTable = defaultStepTable ∧ -128 ≤ s.dec.pred ∧ s.dec.pred ≤ 127 ∧ 36 ≤ s.dec.sidx.val) ∧
    (∀ n ∈ [0x4#4, 0xC#4], n.toNat / 4 % 2 = 1) := by decide

theorem witness_DecodeWhileActiveOnlySetsFaultBitTwo :
    scheduled.seqPhase ≠ .off ∧ lowWait.seqPhase ≠ .off ∧ highWait.seqPhase ≠ .off := by decide

/-- The bounded block at one below its capacity, Playing. -/
def oneBelowCapacity : State := { fullQueue with queue := [[]] }

/-- Each clause, the bounded queue at one below its capacity among them. -/
theorem witness_PlayAndQueueResult :
    (∀ s ∈ [State.reset, drainingLow, oneBelowCapacity],
      ∀ cap, s.cfg.queueCap = some cap → s.queue.length < cap) ∧
    oneBelowCapacity.playing = true ∧ (State.reset.playing = false ∧ State.reset.seqPhase = .off) ∧
    (drainingLow.playing = false ∧ drainingLow.seqPhase ≠ .off) := by decide

theorem witness_FullQueueOnlySetsFaultBitThree :
    (fullQueue.cfg.queueCap = some 2 ∧ 2 ≤ fullQueue.queue.length) ∧
    State.reset.cfg.queueCap = none := by decide

theorem witness_PauseResult :
    (lowWait.playing = true ∧ lowWait.paused = false) ∧ State.reset.playing = false ∧
    pausedOff.paused = true := by decide

theorem witness_ResumeResult :
    (pausedOff.playing = true ∧ pausedOff.paused = true ∧ pausedOff.seqPhase = .off) ∧
    (let s : State := { lowWait with paused := true }
     s.playing = true ∧ s.paused = true ∧ s.seqPhase ≠ .off) ∧
    State.reset.playing = false ∧ lowWait.paused = false := by decide

theorem witness_PauseThenResumeIsNoChange : lowWait.Inv ∧ lowWait.engine = .playing :=
  ⟨lowWait_inv, by decide⟩

/-- SetRateResult and BadRateOnlySetsFaultBitOne meet between 0 and 1. -/
theorem witness_SetRateResult_BadRateOnlySetsFaultBitOne :
    (0 : Int) < 1 ∧ (0 : Int) < 2147483647 ∧ (0 : Int) ≤ 0 ∧ (-2147483648 : Int) ≤ 0 := by decide

theorem witness_EmitScalesByVolume :
    (255 ≤ 255 ∧ 1 ≤ 1 ∧ 1 ≤ 255) ∧ intensity 1 255 = 0 ∧ intensity 255 255 = 254 := by decide

/-- For SeqFetchPlaysFirstLowNibble, SeqFetchPassesOverEmptyBuffers, PauseBeforeFetchDropsFrontBuffer and
SessionPlaysWholeQueueInOrder. -/
theorem witness_scheduled_session :
    scheduled.inputs = [] ∧ scheduled.seqPhase = .fetch ∧ scheduled.playing = true ∧
    scheduled.paused = false ∧ scheduled.abortReq = false ∧
    scheduled.queue = (0x77#8 :: []) :: [[0x1F#8]] := by decide

/-- SeqFetchOnEmptyQueueEndsTask, Playing and Paused. -/
theorem witness_SeqFetchOnEmptyQueueEndsTask :
    ∀ p ∈ [true, false],
      let s : State := { scheduled with queue := [], paused := p }
      s.seqPhase = .fetch ∧ s.abortReq = false ∧ s.queue = [] := by decide

/-- SeqFetchOfAbortedTaskExits, with and without a deferred start. -/
theorem witness_SeqFetchOfAbortedTaskExits :
    ∀ p ∈ [true, false],
      let s : State := { scheduled with abortReq := true, startPend := p, playing := p }
      s.seqPhase = .fetch ∧ s.abortReq = true ∧ s.startPend = p := by decide

/-- For SeqLoDonePlaysHighNibble and StopInLowWaitStillPlaysHighNibble. -/
theorem witness_low_wait : lowWait.seqPhase = .waitLo ∧ lowWait.curBuf[lowWait.byteIdx]? = some 0x77#8 := by
  decide

theorem witness_SeqHiDonePlaysNextByte :
    let s : State := { highWait with curBuf := [0x77#8, 0x12#8] }
    s.seqPhase = .waitHi ∧ s.playing = true ∧ s.paused = false ∧ s.abortReq = false ∧
    s.curBuf[s.byteIdx + 1]? = some 0x12#8 := by decide

/-- With a queued buffer and with none. -/
theorem witness_SeqHiDoneContinuesWithNextBuffer :
    (highWait.seqPhase = .waitHi ∧ highWait.playing = true ∧ highWait.paused = false ∧
      highWait.abortReq = false ∧ highWait.byteIdx + 1 = highWait.curBuf.length) ∧
    State.queue { highWait with queue := [] } = [] := by decide

/-- Each way in which the condition fails. -/
theorem witness_SeqHiDoneExitsWhenConditionFails :
    highWait.seqPhase = .waitHi ∧ State.playing { highWait with playing := false } = false ∧
    State.paused { highWait with paused := true } = true ∧
    State.abortReq { highWait with abortReq := true } = true := by decide

theorem witness_CancelledTaskWritesOneMoreSample :
    drainingLow.Inv ∧ drainingLow.seqPhase = .waitLo ∧
      (drainingLow.playing = false ∨ drainingLow.paused = true ∨ drainingLow.abortReq = true) :=
  ⟨drainingLow_inv, by decide, by decide⟩

/-- Each clause: P4b's phase and P4's. -/
theorem witness_PlayAfterStopStartsWhenOldTaskExits :
    (highWait.Inv ∧ highWait.seqPhase = .waitHi) ∧
    (lowWait.Inv ∧ lowWait.seqPhase = .waitLo ∧ lowWait.curBuf[lowWait.byteIdx]? = some 0x77#8) :=
  ⟨⟨highWait_inv, by decide⟩, lowWait_inv, by decide⟩

/-- For ResetMeetsInvariant and ReachableStatesAreLegal. -/
theorem witness_legal_parameters : defaultConfig.wellFormed = true := by decide

/-- For StepKeepsInvariant, StepNeverStops and SequencerStepOutputAndFrame; and for
ParametersFixedAndTraceGrows, ObservationsNeverSteer and ConfigurationNeverSteers, which need a step
only. -/
theorem witness_invariant_step : ∃ t, lowWait.Inv ∧ step lowWait = .next t ∧
    ∀ rest, lowWait.inputs ≠ .reset :: rest := by
  refine ⟨_, lowWait_inv, rfl, ?_⟩
  intro rest h; cases h

/-- For each writer of the decoder state: the sequencer, DECODE_NIB, DECODE_BUF, STOP and reset. -/
theorem witness_DecoderStateIsClampedAndGuarded :
    (∃ t, step lowWait = .next t ∧ t.dec ≠ lowWait.dec) ∧
    (∀ i ∈ [Input.command (encode (.decodeNib 0xF#4)), .command (encode (.decodeBuf [0x12#8])),
        .command (encode .stop), .reset],
      look (fun t => decide (t.dec ≠ (decoderAt 5 4).dec))
        (step { decoderAt 5 4 with inputs := [i] }) = some true) :=
  ⟨⟨_, rfl, by decide⟩, by decide⟩

/-- For FaultBitsAreSticky and FaultingCommandHasNoOtherEffect: each cause. -/
theorem witness_faulting_commands :
    (∀ c ∈ [bareCommand 0x00#8, encode (.setRate 0), encode (.decodeNib 0x3#4), encode (.play [])],
      look (fun t => decide (t.faultReg ≠ fullQueue.faultReg))
        (step { fullQueue with inputs := [.command c] }) = some true) ∧
    ∀ rest, State.inputs { fullQueue with inputs := [.command (bareCommand 0x00#8)] } ≠
      .reset :: rest := by
  refine ⟨by decide, ?_⟩
  intro rest h; cases h

/-- The engine's state changes by each event that EngineChangesOnlyAsListed lists. -/
theorem witness_EngineChangesOnlyAsListed :
    State.reset.Inv ∧ highWait.Inv ∧
    look State.engine (step { State.reset with inputs := [.command (encode (.play []))] }) =
      some .playing ∧
    look State.engine (step { lowWait with inputs := [.command (encode .pause)] }) = some .paused ∧
    look State.engine (step { pausedOff with inputs := [.command (encode .resume)] }) = some .playing ∧
    look State.engine (step { lowWait with inputs := [.command (encode .stop)] }) = some .idle ∧
    look State.engine (step { highWait with queue := [] }) = some .idle ∧
    look State.engine (step { lowWait with inputs := [.reset] }) = some .idle :=
  ⟨reset_inv, highWait_inv, by decide⟩

/-- CommandsNeverDisturbActiveTask: a session begun while a task drains, and a command with no task. -/
theorem witness_CommandsNeverDisturbActiveTask :
    (drainingLow.seqPhase ≠ .off ∧ drainingLow.playing = false ∧
      look (fun t => t.playing) (exec (.play []) drainingLow) = some true) ∧
    State.reset.seqPhase = .off := by decide

end Sys2Proof.Tests
end

