-- ==== Sys2Proof/Proofs/CommandEffect.lean ====
section
/-! PROOF. What a command can do to the state, said once for all eleven commands. -/

namespace Sys2Proof.Machine

/-- Everything a command can do in a given state: one constructor for each branch of its rule. -/
inductive CommandEffect (s : State) : Instr → State → Prop
  /-- R191. -/
  | faulted {i : Instr} (c : Cause) : CommandEffect s i (respond none (recordFault c s))
  /-- R110. -/
  | decodedNibble (n : Nibble) (off : s.seqPhase = .off) :
      CommandEffect s (.decodeNib n)
        (respond (some (.sample (decodeNibble s.cfg n s.dec).2))
          (setDecoder (decodeNibble s.cfg n s.dec).1 s))
  /-- R111. -/
  | decodedBuffer (buf : Buffer) (off : s.seqPhase = .off) :
      CommandEffect s (.decodeBuf buf)
        (respond (some (.samples (decodeBytes s.cfg buf s.dec).2))
          (setDecoder (decodeBytes s.cfg buf s.dec).1 s))
  /-- R131, R132: no session is begun. -/
  | queued {i : Instr} (b : Buffer) (hi : i = .play b ∨ i = .queue b) (room : queueFull s = false)
      (busy : s.playing = true) : CommandEffect s i (respond none (appendBuffer b s))
  /-- R130: a session is begun and its task scheduled. -/
  | begun {i : Instr} (b : Buffer) (hi : i = .play b ∨ i = .queue b) (room : queueFull s = false)
      (idle : s.playing = false) (off : s.seqPhase = .off) :
      CommandEffect s i
        { s with queue := s.queue ++ [b], playing := true, seqPhase := .fetch, response := none }
  /-- R130: a session is begun while an old task drains. -/
  | deferred {i : Instr} (b : Buffer) (hi : i = .play b ∨ i = .queue b) (room : queueFull s = false)
      (idle : s.playing = false) (active : s.seqPhase ≠ .off) :
      CommandEffect s i
        { s with queue := s.queue ++ [b], playing := true, startPend := true, response := none }
  /-- R133. -/
  | stopped :
      CommandEffect s .stop
        { s with
          playing := false, paused := false, queue := [], trace := s.trace ++ [.write s.pin 0]
          dec := ⟨0, 0⟩, abortReq := s.active || s.abortReq, startPend := false, response := none }
  /-- R134. -/
  | paused (playing : s.playing = true) (going : s.paused = false) :
      CommandEffect s .pause (respond none { s with paused := true })
  /-- R134: PAUSE when not Playing. -/
  | pauseIgnored (h : s.playing = true → s.paused = true) :
      CommandEffect s .pause (respond none s)
  /-- R135: with no task active, one is scheduled. -/
  | resumedOff (playing : s.playing = true) (waiting : s.paused = true) (off : s.seqPhase = .off) :
      CommandEffect s .resume (respond none (scheduleTask { s with paused := false }))
  /-- R135: the active task goes on. -/
  | resumedActive (playing : s.playing = true) (waiting : s.paused = true)
      (active : s.seqPhase ≠ .off) :
      CommandEffect s .resume (respond none { s with paused := false })
  /-- R135: RESUME when not Paused. -/
  | resumeIgnored (h : s.playing = true → s.paused = false) :
      CommandEffect s .resume (respond none s)
  /-- R136. -/
  | pinSet (p : PinId) : CommandEffect s (.setPin p) (respond none { s with pin := p })
  /-- R137. -/
  | rateSet (r : Int) (pos : 0 < r) :
      CommandEffect s (.setRate r) (respond none { s with rate := r.toNat })
  /-- R138. -/
  | volumeSet (v : Int) :
      CommandEffect s (.setVol v) (respond none { s with vol := (clamp v 0 volMax).toNat })
  /-- R124. -/
  | queueCleared : CommandEffect s .clearQueue (respond none (clearQueue s))

/-- R131, R132: PLAY and QUEUE have one of the effects listed for them. -/
theorem enqueueAndStart_effect {i : Instr} {b : Buffer} {s t : State}
    (hi : i = .play b ∨ i = .queue b) (h : enqueueAndStart b s = .next t) :
    CommandEffect s i t := by
  rcases enqueueAndStart_cases h with ⟨-, rfl⟩ | ⟨hr, hp, rfl⟩ | ⟨hr, hp, ho, rfl⟩ |
    ⟨hr, hp, ho, rfl⟩
  · exact .faulted _
  · exact .queued b hi hr hp
  · exact .begun b hi hr hp ho
  · exact .deferred b hi hr hp ho

/-- Every command has one of the listed effects. -/
theorem exec_effect {i : Instr} {s t : State} (h : exec i s = .next t) : CommandEffect s i t := by
  cases i with
  | decodeBuf buf =>
    by_cases off : s.seqPhase = .off
    · cases (execDecodeBuf_idle off buf).symm.trans h
      exact .decodedBuffer buf off
    · cases (execDecodeBuf_active off buf).symm.trans h
      exact .faulted _
  | decodeNib n =>
    by_cases off : s.seqPhase = .off
    · cases (execDecodeNib_idle off n).symm.trans h
      exact .decodedNibble n off
    · cases (execDecodeNib_active off n).symm.trans h
      exact .faulted _
  | play b => exact enqueueAndStart_effect (.inl rfl) h
  | queue b => exact enqueueAndStart_effect (.inr rfl) h
  | stop =>
    cases (execStop_eq s).symm.trans h
    exact .stopped
  | pause =>
    simp only [exec, execPause] at h
    split at h <;> cases h
    · next hp =>
      have ⟨playing, going⟩ : s.playing = true ∧ s.paused = false := by simpa using hp
      exact .paused playing going
    · next hp => exact .pauseIgnored (by simpa using hp)
  | resume =>
    simp only [exec, execResume] at h
    split at h
    · next hp =>
      have ⟨playing, waiting⟩ : s.playing = true ∧ s.paused = true := by simpa using hp
      split at h <;> cases h
      · next off => exact .resumedOff playing waiting off
      · next active => exact .resumedActive playing waiting active
    · next hp =>
      cases h
      exact .resumeIgnored (by simpa using hp)
  | setPin p =>
    cases h
    exact .pinSet p
  | setRate r =>
    simp only [exec, execSetRate] at h
    split at h <;> cases h
    · exact .faulted _
    · next hr => exact .rateSet r (by omega)
  | setVol v =>
    cases h
    exact .volumeSet v
  | clearQueue =>
    cases h
    exact .queueCleared

/-- R76: an instruction that the decoder gives has its operand in range. -/
theorem decode_wellFormed {c : Command} {i : Instr} (h : decode c = .ok i) :
    i.wellFormed = true := by
  unfold decode at h
  split at h
  case h_11 => cases h; rfl
  case h_12 => cases h
  all_goals
    obtain ⟨-, rfl⟩ := needsZeroArg4_eq_ok.mp h
    simp [Instr.wellFormed, intInRange_toInt]

end Sys2Proof.Machine
end

