-- ==== Sys2Proof/Proofs/Invariant.lean ====
section
/-! PROOF. The invariant: it holds at reset, every step keeps it, and it keeps the machine going. -/

namespace Sys2Proof.Machine

/-! #### Reset -/

/-- R220: the reset values meet the invariant, whatever inputs are still to come. -/
theorem resetWith_inv {cfg : Config} (h : cfg.wellFormed = true) (inputs : List Input) :
    State.Inv { State.resetWith cfg with inputs := inputs } := by
  obtain ⟨-, -, hrate, hvol, -⟩ := Config.wellFormed_facts h
  constructor <;> simp [State.resetWith, h, hrate, hvol]

/-- Settles O47: the ranges of the reset values are those of legal parameters. -/
theorem resetMeetsInvariant : Obligations.ResetMeetsInvariant :=
  ⟨fun _ h => resetWith_inv h [], resetWith_inv defaultConfig_wellFormed []⟩

/-! #### Commands -/

/-- The inputs still to come are no part of the invariant. -/
theorem State.Inv.withInputs {s : State} (hs : s.Inv) (rest : List Input) :
    State.Inv { s with inputs := rest } := { hs with }

/-- R20, R121: a queue that is not full has room for one more buffer. -/
theorem queueBound_append {s : State} (room : queueFull s = false) (b : Buffer) :
    ∀ cap, s.cfg.queueCap = some cap → (s.queue ++ [b]).length ≤ cap := by
  intro cap hcap
  have hlt : s.queue.length < cap := Nat.lt_of_not_le fun hle => by
    simp [(queueFull_iff s).2 ⟨cap, hcap, hle⟩] at room
  simpa using hlt

/-- Each effect of a command keeps the invariant. -/
theorem CommandEffect.keeps_inv {s t : State} {i : Instr} (hi : i.wellFormed = true) (hs : s.Inv)
    (h : CommandEffect s i t) : t.Inv := by
  cases h with
  | faulted c => exact { hs with }
  | decodedNibble n off => exact { hs with predRange := decodeState_pred_bounds .. }
  | decodedBuffer buf off =>
    exact { hs with predRange := decodeBytes_pred_bounds _ _ _ fun _ => hs.predRange }
  | queued b hi room busy => exact { hs with queueBound := queueBound_append room b }
  | begun b hi room idle off =>
    obtain ⟨ha, -⟩ := hs.offClearsLatches off
    exact { hs with
      queueBound := queueBound_append room b
      pausedIsPlaying := fun _ => rfl
      playingIsActive := by simp
      offClearsLatches := by simp
      waitingInBuffer := by simp
      abortedPlayingIsPending := by simp [ha]
      idleTaskIsAborted := by simp }
  | deferred b hi room idle active =>
    exact { hs with
      queueBound := queueBound_append room b
      pausedIsPlaying := fun _ => rfl
      playingIsActive := fun _ _ => active
      offClearsLatches := fun off => absurd off active
      pendingIsAborted := fun _ => hs.idleTaskIsAborted idle active
      abortedPlayingIsPending := fun _ _ => rfl
      idleTaskIsAborted := by simp }
  | stopped =>
    exact { hs with
      predRange := by simp
      queueBound := by simp
      pausedIsPlaying := by simp
      playingIsActive := by simp
      offClearsLatches := fun off =>
        ⟨by simpa [State.active, hs.offClearsLatches off] using off, rfl⟩
      pendingIsAborted := by simp
      abortedPlayingIsPending := by simp
      idleTaskIsAborted := fun _ active => by
        have : s.active = true := decide_eq_true active
        simp [this] }
  | paused playing going =>
    exact { hs with pausedIsPlaying := fun _ => playing, playingIsActive := by simp }
  | pauseIgnored => exact { hs with }
  | resumedOff playing waiting off =>
    exact { hs with
      pausedIsPlaying := by simp
      playingIsActive := by simp
      offClearsLatches := by simp
      waitingInBuffer := by simp
      idleTaskIsAborted := by simp [playing] }
  | resumedActive playing waiting active =>
    exact { hs with pausedIsPlaying := by simp, playingIsActive := fun _ _ => active }
  | resumeIgnored => exact { hs with }
  | pinSet p => exact { hs with }
  | rateSet r pos =>
    have hr : intMin ≤ r ∧ r ≤ intMax := of_decide_eq_true hi
    simp only [intMin, intMax] at hr
    have hrate : 1 ≤ r.toNat ∧ r.toNat ≤ 2147483647 := by omega
    exact { hs with rateRange := hrate }
  | volumeSet v =>
    have hv := clamp_bounds v (lo := 0) (hi := volMax) (by decide)
    simp only [volMax] at hv
    have hvol : (clamp v 0 255).toNat ≤ 255 := by omega
    exact { hs with volRange := hvol }
  | queueCleared => exact { hs with queueBound := by simp }

/-! #### The sequencer -/

/-- R169: a task that ends leaves the invariant, if a Playing engine has a start pending. -/
theorem exitTask_inv {s : State} (hs : s.Inv) {q : List Buffer} {p : Bool}
    (hq : q.length ≤ s.queue.length) (hpaused : s.paused = true → p = true)
    (hstart : p = true → s.paused = false → s.startPend = true) :
    (exitTask { s with queue := q, playing := p }).Inv :=
  { hs with
    queueBound := fun cap hcap => hq.trans (hs.queueBound cap hcap)
    byteIdxRange := Nat.zero_le _
    pausedIsPlaying := hpaused
    playingIsActive := fun playing going => by
      have going : s.paused = false := going
      have playing : p = true := playing
      simp [playing, going, hstart playing going]
    offClearsLatches := by simp
    pendingIsAborted := by simp
    waitingInBuffer := by simp; split <;> simp
    abortedPlayingIsPending := by simp
    idleTaskIsAborted := fun idle active => absurd (by simp [show p = false from idle]) active }

/-- R163, R169: a task whose condition fails ends, and what it drops of the queue and of the
position is of no account to the invariant. -/
theorem exitTask_inv_of_not_continues {s : State} (hs : s.Inv) (hc : s.continues = false)
    {q : List Buffer} (hq : q.length ≤ s.queue.length) : (exitTask { s with queue := q }).Inv := by
  refine exitTask_inv hs hq hs.pausedIsPlaying fun playing going => ?_
  rcases (not_continues_iff s).1 hc with idle | paused | aborted
  · simp [playing] at idle
  · simp [going] at paused
  · exact hs.abortedPlayingIsPending aborted playing

/-- R163, R167: an active task that plays a code at a position inside its buffer keeps the
invariant. -/
theorem playCode_inv {s : State} (hs : s.Inv) (active : s.seqPhase ≠ .off) (n : Nibble)
    {q : List Buffer} (hq : q.length ≤ s.queue.length)
    {buf : Buffer} {k : Nat} (hk : k < buf.length) {ph : SeqPhase} (hph : ph ≠ .off) :
    State.Inv
      { playCode n { s with queue := q, curBuf := buf, byteIdx := k } with seqPhase := ph } :=
  { hs with
    predRange := decodeState_pred_bounds ..
    queueBound := fun cap hcap => hq.trans (hs.queueBound cap hcap)
    byteIdxRange := hk.le
    playingIsActive := fun _ _ => hph
    offClearsLatches := fun off => absurd off hph
    waitingInBuffer := fun _ => hk
    idleTaskIsAborted := fun idle _ => hs.idleTaskIsAborted idle active }

/-- R162, R170: the fetch procedure of an active task keeps the invariant. -/
theorem fetchBody_inv {s t : State} (hs : s.Inv) (active : s.seqPhase ≠ .off)
    (h : fetchBody s = .next t) : t.Inv := by
  rcases fetchBody_cases h with ⟨aborted, rfl⟩ | ⟨-, hc, -, rfl⟩ | ⟨-, hc, b, rest, hq, rfl⟩ |
    ⟨hc, -, rfl⟩ | ⟨-, k, b, bs, rest, hq, rfl⟩
  · exact exitTask_inv_of_not_continues hs (by simp [State.continues, aborted]) le_rfl
  · exact exitTask_inv_of_not_continues hs hc le_rfl
  · exact exitTask_inv_of_not_continues (q := rest) hs hc (by simp [hq])
  · obtain ⟨-, going, -⟩ := (continues_iff s).1 hc
    exact exitTask_inv hs (Nat.zero_le _) (by simp [going]) (by simp)
  · exact playCode_inv hs active _ (by simp [hq]; omega) (by simp) (by simp)

/-- R160: a turn of the sequencer keeps the invariant. -/
theorem seqTurn_inv {s t : State} (hs : s.Inv) (h : seqTurn s = .next t) : t.Inv := by
  rcases seqTurn_cases h with ⟨-, rfl⟩ | ⟨hp, h⟩ | ⟨hp, h⟩ | ⟨hp, h⟩
  · exact hs
  · exact fetchBody_inv hs (by simp [hp]) h
  · obtain ⟨b, -, rfl⟩ := seqLoDone_cases h
    exact playCode_inv hs (by simp [hp]) _ le_rfl (hs.waitingInBuffer (.inl hp)) (by simp)
  · rcases seqHiDone_cases h with ⟨hc, rfl⟩ | ⟨hc, hend, -⟩ | ⟨-, b, hb, rfl⟩
    · exact exitTask_inv_of_not_continues hs hc le_rfl
    · rw [seqHiDone_endOfBuffer hc hend] at h
      exact fetchBody_inv hs (by simp [hp]) h
    · obtain ⟨hlt, -⟩ := List.getElem?_eq_some_iff.1 hb
      exact playCode_inv hs (by simp [hp]) _ le_rfl hlt (by simp)

/-! #### Steps and runs -/

/-- Settles O48: case by case on the input, from the invariance of each command's effect and of each
turn of the sequencer. -/
theorem stepKeepsInvariant : Obligations.StepKeepsInvariant := by
  intro s t hs h
  rcases step_cases h with ⟨-, h⟩ | ⟨rest, -, h⟩ | ⟨c, rest, i, -, hd, h⟩ |
    ⟨c, rest, e, -, -, rfl⟩ | ⟨rest, -, rfl⟩
  · exact seqTurn_inv hs h
  · exact seqTurn_inv (hs.withInputs rest) h
  · exact (exec_effect h).keeps_inv (decode_wellFormed hd) (hs.withInputs rest)
  · exact { hs with }
  · exact resetWith_inv hs.cfgOk rest

/-- R28 (e): in an invariant state a turn of the sequencer finds the byte it plays. -/
theorem seqTurn_next {s : State} (hs : s.Inv) : ∃ t, seqTurn s = .next t := by
  cases hp : s.seqPhase with
  | off => exact ⟨s, seqTurn_of_off hp⟩
  | fetch => exact seqTurn_of_fetch hp ▸ fetchBody_next s
  | waitLo =>
    have hlt := hs.waitingInBuffer (.inl hp)
    exact ⟨_, (seqTurn_of_waitLo hp).trans (seqLoDone_eq (List.getElem?_eq_getElem hlt))⟩
  | waitHi =>
    have hlt := hs.waitingInBuffer (.inr hp)
    exact seqTurn_of_waitHi hp ▸ check_next (s := { s with byteIdx := s.byteIdx + 1 }) hlt

/-- R59, R191: in an invariant state every input is answered with a next state. -/
theorem step_next {s : State} (hs : s.Inv) : ∃ t, step s = .next t := by
  match hi : s.inputs with
  | [] => exact step_of_nil hi ▸ seqTurn_next hs
  | .sequencer :: rest => exact step_of_sequencer hi ▸ seqTurn_next (hs.withInputs rest)
  | .reset :: rest => exact ⟨_, step_of_cons hi⟩
  | .command c :: rest =>
    rw [step_of_cons hi]
    simp only [runInput, runCommand]
    split
    · exact exec_next _ _
    · exact ⟨_, raiseFault_eq ..⟩

/-- Every run from an invariant state answers an invariant state. -/
theorem run_inv (k : Nat) {s : State} (hs : s.Inv) :
    ∃ t : State, Sys2Proof.core.run k s = .next t ∧ t.Inv := by
  refine run_keeps (fun s hs => ?_) k hs
  obtain ⟨t, ht⟩ := step_next hs
  exact ⟨t, ht, stepKeepsInvariant s t hs ht⟩

/-- Settles O50: the run from reset ends in an invariant state. -/
theorem reachableStatesAreLegal : Obligations.ReachableStatesAreLegal := by
  intro cfg inputs k hcfg
  obtain ⟨t, ht, inv⟩ := run_inv k (resetWith_inv hcfg inputs)
  obtain ⟨hlo, hhi⟩ := inv.predRange
  exact ⟨t, ht, ⟨hlo, hhi, Nat.le_of_lt_succ t.dec.sidx.isLt⟩, inv.pausedIsPlaying,
    inv.playingIsActive, inv.offClearsLatches, inv.pendingIsAborted, inv.waitingInBuffer⟩

end Sys2Proof.Machine
end

