-- ==== Sys2Proof/Proofs/WhatStepsWrite.lean ====
section
/-! PROOF. Who may write the decoder state, `FAULT`, the parameters and the trace. -/

namespace Sys2Proof.Machine

/-! #### The decoder state -/

/-- R23: the range of a decoder state. -/
def DecoderState.InRange (d : DecoderState) : Prop :=
  -128 ≤ d.pred ∧ d.pred ≤ 127 ∧ d.sidx.val ≤ 88

theorem DecoderState.InRange.of_pred {d : DecoderState} (h : -128 ≤ d.pred ∧ d.pred ≤ 127) :
    d.InRange :=
  ⟨h.1, h.2, Nat.le_of_lt_succ d.sidx.isLt⟩

theorem decodeState_inRange (cfg : Config) (n : Nibble) (d : DecoderState) :
    (decodeState cfg n d).InRange :=
  .of_pred (decodeState_pred_bounds cfg n d)

/-- R111: a loop that changed the decoder state decoded a byte, so its result is in range. -/
theorem decodeBytes_inRange_of_ne {cfg : Config} {buf : Buffer} {d : DecoderState}
    (hne : (decodeBytes cfg buf d).1 ≠ d) : (decodeBytes cfg buf d).1.InRange :=
  .of_pred <| decodeBytes_pred_bounds cfg buf d fun hnil => by simp [hnil] at hne

/-- R21, R22: a turn of the sequencer that changes the decoder state decodes one code. -/
theorem seqTurn_dec {s t : State} (h : seqTurn s = .next t) (hne : t.dec ≠ s.dec) :
    s.seqPhase ≠ .off ∧ ∃ n, t.dec = decodeState s.cfg n s.dec := by
  rcases seqTurn_ends_or_plays h with ⟨-, rfl⟩ | ⟨-, q, p, -, -, rfl⟩ |
    ⟨active, n, q, cb, bi, ph, -, rfl⟩
  · exact absurd rfl hne
  · exact absurd rfl hne
  · exact ⟨active, n, rfl⟩

/-- R21, R22: a command that changes the decoder state is a decode command or STOP. -/
theorem CommandEffect.dec {s t : State} {i : Instr} (h : CommandEffect s i t)
    (hne : t.dec ≠ s.dec) :
    (∃ n, i = .decodeNib n ∧ t.dec = decodeState s.cfg n s.dec) ∨
    (∃ buf, i = .decodeBuf buf ∧ t.dec = (decodeBytes s.cfg buf s.dec).1) ∨
    (i = .stop ∧ t.dec = ⟨0, 0⟩) := by
  cases h with
  | decodedNibble n off => exact .inl ⟨n, rfl, rfl⟩
  | decodedBuffer buf off => exact .inr (.inl ⟨buf, rfl, rfl⟩)
  | stopped => exact .inr (.inr ⟨rfl, rfl⟩)
  | _ => exact absurd rfl hne

/-- Settles O51: each input's writers, and the clamp of each. -/
theorem decoderStateIsClampedAndGuarded : Obligations.DecoderStateIsClampedAndGuarded := by
  refine ⟨fun s t h hne => ?_, fun _ => rfl⟩
  have zero : DecoderState.InRange ⟨0, 0⟩ := by simp [DecoderState.InRange]
  rcases step_cases h with ⟨hi, h⟩ | ⟨rest, hi, h⟩ | ⟨c, rest, i, hi, hd, h⟩ |
    ⟨c, rest, e, -, -, rfl⟩ | ⟨rest, hi, rfl⟩
  · obtain ⟨active, n, hn⟩ := seqTurn_dec h hne
    exact ⟨hn ▸ decodeState_inRange .., .inl ⟨.inl hi, active, n, hn⟩⟩
  · obtain ⟨active, n, hn⟩ := seqTurn_dec h hne
    exact ⟨hn ▸ decodeState_inRange .., .inl ⟨.inr ⟨rest, hi⟩, active, n, hn⟩⟩
  · rcases (exec_effect h).dec hne with ⟨n, rfl, hn⟩ | ⟨buf, rfl, hb⟩ | ⟨rfl, h0⟩
    · exact ⟨hn ▸ decodeState_inRange .., .inr (.inl ⟨c, rest, n, hi, hd, hn⟩)⟩
    · exact ⟨hb ▸ decodeBytes_inRange_of_ne (hb ▸ hne),
        .inr (.inr (.inl ⟨c, rest, buf, hi, hd, hb⟩))⟩
    · exact ⟨h0 ▸ zero, .inr (.inr (.inr (.inl ⟨c, rest, hi, hd, h0⟩)))⟩
  · exact absurd rfl hne
  · exact ⟨zero, .inr (.inr (.inr (.inr ⟨rest, hi, rfl⟩)))⟩

/-! #### FAULT -/

/-- R196: the sequencer raises nothing. -/
theorem seqTurn_faultReg {s t : State} (h : seqTurn s = .next t) : t.faultReg = s.faultReg := by
  rcases seqTurn_ends_or_plays h with ⟨-, rfl⟩ | ⟨-, q, p, -, -, rfl⟩ |
    ⟨-, n, q, cb, bi, ph, -, rfl⟩ <;> rfl

/-- R191: a step other than reset changes `FAULT` only by setting bits. -/
theorem step_faultReg {s t : State} (h : step s = .next t)
    (hr : ∀ rest, s.inputs ≠ .reset :: rest) :
    ∃ bits, t.faultReg = s.faultReg ||| bits := by
  have keeps : ∀ {f : BitVec 4}, f = s.faultReg → ∃ bits, f = s.faultReg ||| bits :=
    fun hf => ⟨0#4, by simp [hf]⟩
  rcases step_cases h with ⟨-, h⟩ | ⟨rest, -, h⟩ | ⟨c, rest, i, -, -, h⟩ | ⟨c, rest, e, -, -, rfl⟩ |
    ⟨rest, hi, -⟩
  · exact keeps (seqTurn_faultReg h)
  · exact keeps (seqTurn_faultReg (s := { s with inputs := rest }) h)
  · rcases exec_faults_or_keeps h with ⟨cause, rfl⟩ | hf
    · exact ⟨cause.bit, rfl⟩
    · exact keeps hf
  · exact ⟨1#4, rfl⟩
  · exact absurd hi (hr rest)

/-- Settles O52: a bit once set stays set under a bitwise or. -/
theorem faultBitsAreSticky : Obligations.FaultBitsAreSticky := by
  intro s t h hr
  obtain ⟨bits, hbits⟩ := step_faultReg h hr
  rw [hbits]
  ext k hk
  cases hs : s.faultReg[k] <;> simp [hs]

/-! #### The parameters and the trace -/

/-- R34, R39: what every move but reset does to the parameters and the trace. -/
def KeepsCfgAndTrace (s t : State) : Prop :=
  t.cfg = s.cfg ∧ ∃ events, t.trace = s.trace ++ events

theorem KeepsCfgAndTrace.of_eq {s t : State} (hcfg : t.cfg = s.cfg) (htrace : t.trace = s.trace) :
    KeepsCfgAndTrace s t :=
  ⟨hcfg, [], by simp [htrace]⟩

/-- R34, R39: a turn of the sequencer keeps the parameters and appends to the trace. -/
theorem seqTurn_keepsCfgAndTrace {s t : State} (h : seqTurn s = .next t) :
    KeepsCfgAndTrace s t := by
  rcases seqTurn_ends_or_plays h with ⟨-, rfl⟩ | ⟨-, q, p, -, -, rfl⟩ |
    ⟨-, n, q, cb, bi, ph, -, rfl⟩
  · exact .of_eq rfl rfl
  · exact .of_eq rfl rfl
  · exact ⟨rfl, _, List.append_assoc ..⟩

/-- R34, R39: a command keeps the parameters, and STOP alone appends to the trace. -/
theorem CommandEffect.keepsCfgAndTrace {s t : State} {i : Instr} (h : CommandEffect s i t) :
    KeepsCfgAndTrace s t := by
  cases h with
  | stopped => exact ⟨rfl, _, rfl⟩
  | _ => exact .of_eq rfl rfl

/-- Settles O54: by the input; reset alone may shorten the trace. -/
theorem parametersFixedAndTraceGrows : Obligations.ParametersFixedAndTraceGrows := by
  intro s t h
  have settle : KeepsCfgAndTrace s t → t.cfg = s.cfg ∧
      ((∀ rest, s.inputs ≠ .reset :: rest) → ∃ events, t.trace = s.trace ++ events) :=
    And.imp_right fun events _ => events
  rcases step_cases h with ⟨-, h⟩ | ⟨rest, -, h⟩ | ⟨c, rest, i, -, -, h⟩ | ⟨c, rest, e, -, -, rfl⟩ |
    ⟨rest, hi, rfl⟩
  · exact settle (seqTurn_keepsCfgAndTrace h)
  · exact settle (seqTurn_keepsCfgAndTrace (s := { s with inputs := rest }) h)
  · exact settle (exec_effect h).keepsCfgAndTrace
  · exact settle (.of_eq rfl rfl)
  · exact ⟨rfl, fun hr => absurd hi (hr rest)⟩

end Sys2Proof.Machine
end

