-- ==== Sys2Proof/Proofs/Noninterference.lean ====
section
/-! PROOF. Two runs side by side. A relation between states that meets the unwinding conditions
below is kept by every step; the two claims that some element never steers the machine are two such
relations. -/

namespace Sys2Proof.Machine

/-! #### Unwinding conditions -/

/-- The state `s` with the configuration registers, `FAULT`, the trace and the response of `o`: the
elements that no branch of the machine reads. -/
def State.withUnread (s o : State) : State :=
  { s with
    pin := o.pin, rate := o.rate, vol := o.vol
    faultReg := o.faultReg, trace := o.trace, response := o.response }

/-- What a relation between the states of two runs needs for every step to keep it. -/
structure Unwinding (R : State → State → Prop) : Prop where
  /-- Related states differ in unread elements only. -/
  differ : ∀ {s t}, R s t → ∃ o, t = s.withUnread o
  /-- Both runs may write the read elements alike. -/
  steered : ∀ {s t}, R s t → ∀ u : State, R (u.withUnread s) (u.withUnread t)
  /-- Each run may append an event of its own. -/
  event : ∀ {s t}, R s t → ∀ a b : Event,
    R { s with trace := s.trace ++ [a] } { t with trace := t.trace ++ [b] }
  fault : ∀ {s t}, R s t → ∀ c, R (recordFault c s) (recordFault c t)
  response : ∀ {s t}, R s t → ∀ r, R (respond r s) (respond r t)
  pin : ∀ {s t}, R s t → ∀ p, R { s with pin := p } { t with pin := p }
  rate : ∀ {s t}, R s t → ∀ r, R { s with rate := r } { t with rate := r }
  vol : ∀ {s t}, R s t → ∀ v, R { s with vol := v } { t with vol := v }
  reset : ∀ {s t}, R s t → R (resetBlock s) (resetBlock t)

/-- Two runs answer alike: next states that `R` relates, or the same fault. -/
inductive Agree (R : State → State → Prop) : Result → Result → Prop
  | next {s t : State} (h : R s t) : Agree R (.next s) (.next t)
  | fault (f : Fault) : Agree R (.fault f) (.fault f)

theorem Agree.next_of_next {R : State → State → Prop} {a b : Result} (h : Agree R a b) {t : State}
    (ha : a = .next t) : ∃ t', b = .next t' ∧ R t t' := by
  cases h with
  | next h => cases ha; exact ⟨_, rfl, h⟩
  | fault f => cases ha

/-- A branch that both runs take alike. -/
theorem Agree.branch {R : State → State → Prop} {c : Prop} [Decidable c] {a b a' b' : Result}
    (h : c → Agree R a a') (h' : ¬c → Agree R b b') :
    Agree R (if c then a else b) (if c then a' else b') := by
  split
  · next hc => exact h hc
  · next hc => exact h' hc

section
variable {R : State → State → Prop} (hR : Unwinding R) {s t : State}
include hR

/-! #### Commands -/

/-- A command that ends with no response, or with the same one. -/
theorem Unwinding.responded (h : R s t) (r : Option Response) :
    Agree R (.next (respond r s)) (.next (respond r t)) :=
  .next (hR.response h r)

theorem Unwinding.raiseFault (h : R s t) (c : Cause) : Agree R (raiseFault c s) (raiseFault c t) :=
  hR.responded (hR.fault h c) none

/-- R130: both runs schedule a task, or both record a start. -/
theorem Unwinding.start (h : R s t) : R (start s) (start t) := by
  obtain ⟨o, rfl⟩ := hR.differ h
  show R (if s.seqPhase = .off then _ else _) (if s.seqPhase = .off then _ else _)
  split
  · exact hR.steered h (scheduleTask s)
  · exact hR.steered h { s with startPend := true }

/-- R131, R132. -/
theorem Unwinding.enqueueAndStart (h : R s t) (b : Buffer) :
    Agree R (enqueueAndStart b s) (enqueueAndStart b t) := by
  obtain ⟨o, rfl⟩ := hR.differ h
  exact .branch (fun _ => hR.raiseFault h _) fun _ =>
    .branch (fun _ => hR.responded (hR.steered h (appendBuffer b s)) none) fun _ =>
      hR.responded (hR.start (hR.steered h { appendBuffer b s with playing := true })) none

/-- R133: each run writes the zero to its own pin. -/
theorem Unwinding.execStop (h : R s t) : Agree R (execStop s) (execStop t) := by
  rw [execStop_eq, execStop_eq]
  obtain ⟨o, rfl⟩ := hR.differ h
  have stopped := hR.steered h
    { s with
      playing := false, paused := false, queue := [], dec := ⟨0, 0⟩
      abortReq := s.active || s.abortReq, startPend := false }
  exact hR.responded (hR.event stopped (.write s.pin 0) (.write o.pin 0)) none

/-- Every command is answered alike in both runs. -/
theorem Unwinding.exec (h : R s t) (i : Instr) : Agree R (exec i s) (exec i t) := by
  obtain ⟨o, rfl⟩ := hR.differ h
  cases i with
  | decodeBuf buf =>
    exact .branch (fun _ => hR.raiseFault h _) fun _ =>
      hR.responded (hR.steered h (setDecoder (decodeBytes s.cfg buf s.dec).1 s)) _
  | decodeNib n =>
    exact .branch (fun _ => hR.raiseFault h _) fun _ =>
      hR.responded (hR.steered h (setDecoder (decodeNibble s.cfg n s.dec).1 s)) _
  | play b => exact hR.enqueueAndStart h b
  | queue b => exact hR.enqueueAndStart h b
  | stop => exact hR.execStop h
  | pause =>
    exact .branch (fun _ => hR.responded (hR.steered h { s with paused := true }) none)
      fun _ => hR.responded h none
  | resume =>
    exact .branch
      (fun _ => .branch
        (fun _ => hR.responded (hR.steered h (scheduleTask { s with paused := false })) none)
        fun _ => hR.responded (hR.steered h { s with paused := false }) none)
      fun _ => hR.responded h none
  | setPin p => exact hR.responded (hR.pin h p) none
  | setRate r =>
    exact .branch (fun _ => hR.raiseFault h _) fun _ => hR.responded (hR.rate h r.toNat) none
  | setVol v => exact hR.responded (hR.vol h _) none
  | clearQueue => exact hR.responded (hR.steered h (clearQueue s)) none

/-! #### The sequencer -/

theorem Unwinding.exitTask (h : R s t) : Agree R (.next (exitTask s)) (.next (exitTask t)) := by
  obtain ⟨o, rfl⟩ := hR.differ h
  exact .next (hR.steered h (exitTask s))

/-- R163, R167: a code is decoded and emitted, and the phase moves on. -/
theorem Unwinding.playCode (h : R s t) (n : Nibble) (ph : SeqPhase) :
    R { playCode n s with seqPhase := ph } { playCode n t with seqPhase := ph } := by
  obtain ⟨o, rfl⟩ := hR.differ h
  exact hR.event (hR.event (hR.steered h
    { s with dec := decodeState s.cfg n s.dec, seqPhase := ph }) _ _) _ _

/-- R163, R167: a byte of the current buffer is played, or both runs find none. -/
theorem Unwinding.playByte (h : R s t) (b : Option Byte) (nibble : Byte → Nibble) (ph : SeqPhase) :
    Agree R
      (match b with
        | some b => .next { Machine.playCode (nibble b) s with seqPhase := ph }
        | none => .fault .positionOutsideBuffer)
      (match b with
        | some b => .next { Machine.playCode (nibble b) t with seqPhase := ph }
        | none => .fault .positionOutsideBuffer) := by
  cases b with
  | some b => exact .next (hR.playCode h _ _)
  | none => exact .fault _

/-- R163. -/
theorem Unwinding.checkWith {fetch fetch' : State → Result} (h : R s t)
    (hf : Agree R (fetch s) (fetch' t)) : Agree R (checkWith fetch s) (checkWith fetch' t) := by
  obtain ⟨o, rfl⟩ := hR.differ h
  exact .branch (fun _ => .branch (fun _ => hf) fun _ => hR.exitTask h) fun _ =>
    .branch (fun _ => hR.playByte h s.curBuf[s.byteIdx]? lowNibble .waitLo) fun _ => hR.exitTask h

/-- R167. -/
theorem Unwinding.seqLoDone (h : R s t) : Agree R (seqLoDone s) (seqLoDone t) := by
  obtain ⟨o, rfl⟩ := hR.differ h
  exact hR.playByte h s.curBuf[s.byteIdx]? highNibble .waitHi

/-- R162, R170. -/
theorem Unwinding.fetchLoop (h : R s t) (q : List Buffer) :
    Agree R (fetchLoop q s) (fetchLoop q t) := by
  induction q generalizing s t with
  | nil =>
    obtain ⟨o, rfl⟩ := hR.differ h
    exact .branch (fun _ => hR.exitTask h) fun _ =>
      .branch (fun _ => hR.exitTask (hR.steered h { s with playing := false })) fun _ =>
        hR.exitTask h
  | cons b rest ih =>
    obtain ⟨o, rfl⟩ := hR.differ h
    have h' := hR.steered h { s with queue := rest, curBuf := b, byteIdx := 0 }
    exact .branch (fun _ => hR.exitTask h) fun _ => hR.checkWith h' (ih h')

/-- R160. -/
theorem Unwinding.seqTurn (h : R s t) : Agree R (seqTurn s) (seqTurn t) := by
  obtain ⟨o, rfl⟩ := hR.differ h
  cases hp : s.seqPhase with
  | off =>
    rw [seqTurn_of_off hp, seqTurn_of_off (s := s.withUnread o) hp]
    exact .next h
  | fetch =>
    rw [seqTurn_of_fetch hp, seqTurn_of_fetch (s := s.withUnread o) hp]
    exact hR.fetchLoop h s.queue
  | waitLo =>
    rw [seqTurn_of_waitLo hp, seqTurn_of_waitLo (s := s.withUnread o) hp]
    exact hR.seqLoDone h
  | waitHi =>
    rw [seqTurn_of_waitHi hp, seqTurn_of_waitHi (s := s.withUnread o) hp]
    have moved := hR.steered h { s with byteIdx := s.byteIdx + 1 }
    exact hR.checkWith moved (hR.fetchLoop moved s.queue)

/-! #### A step -/

/-- R59: an input is answered alike in both runs. -/
theorem Unwinding.runInput (h : R s t) (i : Input) : Agree R (runInput i s) (runInput i t) := by
  cases i with
  | command c =>
    simp only [Machine.runInput, runCommand]
    cases decode c with
    | ok i => exact hR.exec h i
    | error e => exact hR.raiseFault h _
  | sequencer => exact hR.seqTurn h
  | reset => exact .next (hR.reset h)

/-- A step keeps the relation: the runs take the same input, and answer it alike. -/
theorem Unwinding.step (h : R s t) : Agree R (step s) (step t) := by
  obtain ⟨o, rfl⟩ := hR.differ h
  match hi : s.inputs with
  | [] =>
    rw [step_of_nil hi, step_of_nil (s := s.withUnread o) hi]
    exact hR.seqTurn h
  | i :: rest =>
    rw [step_of_cons hi, step_of_cons (s := s.withUnread o) hi]
    exact hR.runInput (hR.steered h { s with inputs := rest }) i

end

/-! #### The two relations -/

/-- The states agree but for `FAULT`, the trace and the response. -/
def SameButObservations (s t : State) : Prop :=
  ∃ f tr r, t = { s with faultReg := f, trace := tr, response := r }

/-- The states agree but for `PIN`, `RATE`, `VOL` and what the events of the trace say. -/
def SameButConfiguration (s t : State) : Prop :=
  ∃ p r v tr, tr.length = s.trace.length ∧ t = { s with pin := p, rate := r, vol := v, trace := tr }

theorem sameButObservations_unwinding : Unwinding SameButObservations where
  differ := by
    rintro s _ ⟨f, tr, r, rfl⟩
    exact ⟨{ s with faultReg := f, trace := tr, response := r }, rfl⟩
  steered := by rintro s _ ⟨f, tr, r, rfl⟩ u; exact ⟨f, tr, r, rfl⟩
  event := by rintro s _ ⟨f, tr, r, rfl⟩ a b; exact ⟨f, tr ++ [b], r, rfl⟩
  fault := by rintro s _ ⟨f, tr, r, rfl⟩ c; exact ⟨f ||| c.bit, tr, r, rfl⟩
  response := by rintro s _ ⟨f, tr, r, rfl⟩ r'; exact ⟨f, tr, r', rfl⟩
  pin := by rintro s _ ⟨f, tr, r, rfl⟩ p; exact ⟨f, tr, r, rfl⟩
  rate := by rintro s _ ⟨f, tr, r, rfl⟩ r'; exact ⟨f, tr, r, rfl⟩
  vol := by rintro s _ ⟨f, tr, r, rfl⟩ v; exact ⟨f, tr, r, rfl⟩
  reset := by rintro s _ ⟨f, tr, r, rfl⟩; exact ⟨0#4, [], none, rfl⟩

theorem sameButConfiguration_unwinding : Unwinding SameButConfiguration where
  differ := by
    rintro s _ ⟨p, r, v, tr, hlen, rfl⟩
    exact ⟨{ s with pin := p, rate := r, vol := v, trace := tr }, rfl⟩
  steered := by rintro s _ ⟨p, r, v, tr, hlen, rfl⟩ u; exact ⟨p, r, v, tr, hlen, rfl⟩
  event := by
    rintro s _ ⟨p, r, v, tr, hlen, rfl⟩ a b
    exact ⟨p, r, v, tr ++ [b], by simp [hlen], rfl⟩
  fault := by rintro s _ ⟨p, r, v, tr, hlen, rfl⟩ c; exact ⟨p, r, v, tr, hlen, rfl⟩
  response := by rintro s _ ⟨p, r, v, tr, hlen, rfl⟩ r'; exact ⟨p, r, v, tr, hlen, rfl⟩
  pin := by rintro s _ ⟨p, r, v, tr, hlen, rfl⟩ p'; exact ⟨p', r, v, tr, hlen, rfl⟩
  rate := by rintro s _ ⟨p, r, v, tr, hlen, rfl⟩ r'; exact ⟨p, r', v, tr, hlen, rfl⟩
  vol := by rintro s _ ⟨p, r, v, tr, hlen, rfl⟩ v'; exact ⟨p, r, v', tr, hlen, rfl⟩
  reset := by
    rintro s _ ⟨p, r, v, tr, hlen, rfl⟩
    exact ⟨s.cfg.resetPin, s.cfg.resetRate, s.cfg.resetVolume, [], rfl, rfl⟩

/-- Settles O58: agreement but for the observations is kept by every step. -/
theorem observationsNeverSteer : Obligations.ObservationsNeverSteer := by
  intro s t f tr r h
  obtain ⟨_, hstep, f', tr', r', rfl⟩ :=
    (sameButObservations_unwinding.step ⟨f, tr, r, rfl⟩).next_of_next h
  exact ⟨f', tr', r', hstep⟩

/-- Settles O59: agreement but for the configuration is kept by every step. -/
theorem configurationNeverSteers : Obligations.ConfigurationNeverSteers := by
  intro s t p r v h
  obtain ⟨t', hstep, p', r', v', tr', hlen, rfl⟩ :=
    (sameButConfiguration_unwinding.step ⟨p, r, v, s.trace, rfl, rfl⟩).next_of_next h
  exact ⟨_, hstep, rfl, rfl, rfl, rfl, rfl, rfl, rfl, rfl, rfl, rfl, rfl, hlen⟩

end Sys2Proof.Machine
end

section
/-! PROOF. A step with a command at the port, and that no step from an invariant state stops the
machine. -/

namespace Sys2Proof.Machine

/-- R77, R201: the port hands a command that decodes to `exec`, with nothing done around it. -/
theorem runCommand_of_decode {c : Command} {i : Instr} (h : decode c = .ok i) (s : State) :
    runCommand c s = exec i s := by
  simp only [runCommand, h]

/-- Settles O7: the step takes the command off the inputs, and the port runs what it decodes to. -/
theorem stepRunsDecodedCommand : Obligations.StepRunsDecodedCommand := by
  intro s c rest i hin hdec
  calc step s = runCommand c { s with inputs := rest } := step_of_cons hin
    _ = exec i { s with inputs := rest } := runCommand_of_decode hdec _

/-- Settles O49: each kind of input is answered from an invariant state (`step_next`); the one way to
stop, a position outside the current buffer, is what R28 (e) excludes. -/
theorem stepNeverStops : Obligations.StepNeverStops :=
  fun _ inv => step_next inv

end Sys2Proof.Machine
end

section
/-! PROOF. The command encoding: what the decoder answers to every command, said once, and from it the
round trips, the opcode map, the count of legal bytes, and what an illegal byte does. -/

namespace Sys2Proof

/-! #### What the decoder can answer -/

/-- R76: the instruction's operand, if it has a lane of the command, is what stands on that lane. -/
def Instr.OperandOn : Instr → Command → Prop
  | .decodeBuf b, c => c.buf = b
  | .play b, c => c.buf = b
  | .queue b, c => c.buf = b
  | .stop, _ => True
  | .pause, _ => True
  | .resume, _ => True
  | .setPin p, c => c.pin = p
  | .setRate r, c => c.int.toInt = r
  | .setVol v, c => c.int.toInt = v
  | .clearQueue, _ => True
  | .decodeNib _, _ => True

/-- R77: what the decoder can answer to a command. -/
inductive DecodeOutcome (c : Command) : Except DecodeError Instr → Prop
  | reserved (hop : c.byte.toNat % 16 = 0 ∨ 12 ≤ c.byte.toNat % 16) :
      DecodeOutcome c (.error .reservedOpcode)
  | nonzeroArg4 (hop : 1 ≤ c.byte.toNat % 16 ∧ c.byte.toNat % 16 ≤ 10) (harg : c.byte.toNat / 16 ≠ 0) :
      DecodeOutcome c (.error .nonzeroArg4)
  | ok (i : Instr) (hbyte : (encode i).byte = c.byte) (hlane : i.OperandOn c) :
      DecodeOutcome c (.ok i)

/-- Check 2 of R77, for an instruction whose opcode is from 1 to 10. -/
theorem needsZeroArg4_outcome {c : Command} {i : Instr}
    (hop : 1 ≤ (opField c.byte).toNat ∧ (opField c.byte).toNat ≤ 10)
    (henc : (encode i).byte = commandByte 0#4 (opField c.byte)) (hlane : i.OperandOn c) :
    DecodeOutcome c (needsZeroArg4 (arg4Field c.byte) i) := by
  by_cases harg : arg4Field c.byte = 0#4
  · have hbyte : (encode i).byte = c.byte := by rw [henc, ← harg, commandByte_fields]
    rw [harg, needsZeroArg4_zero]
    exact .ok i hbyte hlane
  · rw [needsZeroArg4_of_ne harg]
    rw [opField_toNat] at hop
    exact .nonzeroArg4 hop fun h => harg (BitVec.eq_of_toNat_eq ((arg4Field_toNat _).trans h))

/-- R77, R78: the decoder's whole behaviour, row by row. -/
theorem decode_outcome (c : Command) : DecodeOutcome c (decode c) := by
  unfold decode
  split
  case h_11 hop =>
    refine .ok _ ?_ trivial
    rw [← commandByte_fields c.byte, hop, arg4Field_commandByte]
    rfl
  case h_12 =>
    refine .reserved ?_
    rw [← opField_toNat]
    simp only [imp_false] at *
    bv_omega
  all_goals
    next hop =>
    exact needsZeroArg4_outcome (by rw [hop]; decide) (by rw [hop]; rfl) (by simp [Instr.OperandOn])

/-- R77, R78: a command decodes to the instruction that has its byte and its operand. -/
theorem decode_eq_ok_iff {c : Command} {i : Instr} :
    decode c = .ok i ↔ (encode i).byte = c.byte ∧ i.OperandOn c := by
  constructor
  · intro h
    cases h ▸ decode_outcome c with
    | ok _ hbyte hlane => exact ⟨hbyte, hlane⟩
  · obtain ⟨byte, buf, int, pin⟩ := c
    rintro ⟨rfl, hlane⟩
    cases i with
    | stop | pause | resume | clearQueue | decodeNib => simp [decode, encode, bareCommand]
    | _ => simpa [decode, encode, bareCommand, Instr.OperandOn] using hlane

/-! #### Legal and illegal bytes -/

/-- R77: the byte is a command: `OP` is 11, or `OP` is from 1 to 10 and `ARG4` is 0. -/
def legalByte (b : Byte) : Bool :=
  decide (b.toNat % 16 = 11 ∨ (1 ≤ b.toNat % 16 ∧ b.toNat % 16 ≤ 10) ∧ b.toNat / 16 = 0)

theorem legalByte_iff (b : Byte) :
    legalByte b = true ↔
      b.toNat % 16 = 11 ∨ (1 ≤ b.toNat % 16 ∧ b.toNat % 16 ≤ 10) ∧ b.toNat / 16 = 0 :=
  decide_eq_true_iff

theorem commandByte_toNat_mod (arg4 op : Nibble) : (commandByte arg4 op).toNat % 16 = op.toNat := by
  rw [← opField_toNat, opField_commandByte]

/-- R78: the encoder gives legal bytes only. -/
theorem legalByte_encode (i : Instr) : legalByte (encode i).byte = true := by
  rw [legalByte_iff]
  cases i with
  | decodeNib n => exact .inl (commandByte_toNat_mod n 0xB#4)
  | _ => simp [encode, bareCommand, commandByte]

/-- R79: check 1 of R77 fails on the reserved opcodes alone. -/
theorem decode_eq_reservedOpcode_iff (c : Command) :
    decode c = .error .reservedOpcode ↔ c.byte.toNat % 16 = 0 ∨ 12 ≤ c.byte.toNat % 16 := by
  match decode c, decode_outcome c with
  | _, .reserved hop => exact iff_of_true rfl hop
  | _, .nonzeroArg4 hop _ => exact iff_of_false nofun (by omega)
  | _, .ok i hbyte _ =>
    have legal := (legalByte_iff _).mp (hbyte ▸ legalByte_encode i)
    exact iff_of_false nofun (by omega)

/-- R79: check 2 of R77 fails on a nonzero `ARG4` beside an opcode from 1 to 10 alone. -/
theorem decode_eq_nonzeroArg4_iff (c : Command) :
    decode c = .error .nonzeroArg4 ↔
      1 ≤ c.byte.toNat % 16 ∧ c.byte.toNat % 16 ≤ 10 ∧ c.byte.toNat / 16 ≠ 0 := by
  match decode c, decode_outcome c with
  | _, .reserved hop => exact iff_of_false nofun (by omega)
  | _, .nonzeroArg4 hop harg => exact iff_of_true rfl ⟨hop.1, hop.2, harg⟩
  | _, .ok i hbyte _ =>
    have legal := (legalByte_iff _).mp (hbyte ▸ legalByte_encode i)
    exact iff_of_false nofun (by omega)

/-- R77: the two checks let the legal bytes through. -/
theorem isOk_decode (c : Command) : (decode c).isOk = legalByte c.byte := by
  match decode c, decode_outcome c with
  | _, .reserved hop => exact (decide_eq_false (by omega)).symm
  | _, .nonzeroArg4 hop harg => exact (decide_eq_false (by omega)).symm
  | _, .ok i hbyte _ => exact (hbyte ▸ legalByte_encode i).symm

/-- R77: of the bytes with `ARG4` up to `m`, eleven are legal with `ARG4 = 0`, and one with each further
`ARG4`. -/
theorem countP_legalByte {m : Nat} (hm : m < 16) :
    (List.range (16 * m + 16)).countP (fun k => legalByte (BitVec.ofNat 8 k)) = 11 + m := by
  induction m with
  | zero => decide
  | succ m ih =>
    have oneMore : (List.range 16).countP
        (fun k => legalByte (BitVec.ofNat 8 (16 * m + 16 + k))) = 1 := by
      have : m < 15 := by omega
      clear ih hm
      interval_cases m <;> decide
    rw [Nat.mul_add_one, List.range_add, List.countP_append, ih (by omega), List.countP_map]
    exact congrArg (11 + m + ·) oneMore

/-! #### The obligations on the encoding -/

/-- Settles O2: the encoding has the instruction's byte by definition, and its operand on the lane of the
operand's type; for an integer operand this is the round trip through the 32-bit pattern. -/
theorem decodeOfEncodeIsInstruction : Obligations.DecodeOfEncodeIsInstruction := by
  intro i wf
  refine decode_eq_ok_iff.mpr ⟨rfl, ?_⟩
  cases i with
  | setRate r => exact toInt_ofInt_of_inRange wf
  | setVol v => exact toInt_ofInt_of_inRange wf
  | decodeBuf | play | queue | setPin => rfl
  | stop | pause | resume | clearQueue | decodeNib => trivial

/-- Settles O3: `decode_eq_ok_iff` gives the byte, and the well-formed instruction makes the round trip of
O2. -/
theorem encodeOfDecodeIsCommandByte : Obligations.EncodeOfDecodeIsCommandByte := by
  intro c i hdec
  have wf : i.wellFormed = true := Machine.decode_wellFormed hdec
  exact ⟨wf, (decode_eq_ok_iff.mp hdec).1, decodeOfEncodeIsInstruction i wf⟩

/-- Settles O5: the two checks fail exactly where the rule says, and the legal bytes are counted. -/
theorem decoderIsTotalOverBytes : Obligations.DecoderIsTotalOverBytes := by
  refine ⟨fun c => ⟨decode_eq_reservedOpcode_iff c, decode_eq_nonzeroArg4_iff c⟩, fun b v p => ?_⟩
  simp only [isOk_decode]
  exact countP_legalByte (m := 15) (by decide)

/-- Settles O4: each row's byte is the one that encodes its instruction, and the reserved opcodes fail
check 1. -/
theorem opcodeMapIsAsListed : Obligations.OpcodeMapIsAsListed := by
  intro b v p
  have row (i : Instr) (hlane : i.OperandOn ⟨(encode i).byte, b, v, p⟩) :
      decode ⟨(encode i).byte, b, v, p⟩ = .ok i := decode_eq_ok_iff.mpr ⟨rfl, hlane⟩
  refine ⟨row (.decodeBuf b) rfl, row (.play b) rfl, row (.queue b) rfl, row .stop trivial,
    row .pause trivial, row .resume trivial, row (.setPin p) rfl, row (.setRate v.toInt) rfl,
    row (.setVol v.toInt) rfl, row .clearQueue trivial, fun n => row (.decodeNib n) trivial, ?_⟩
  intro n op hop
  refine (decode_eq_reservedOpcode_iff _).mpr ?_
  rw [show (n ++ op).toNat % 16 = op.toNat from commandByte_toNat_mod n op]
  revert op
  decide

/-- Settles O6: ten closed computations of the decoder, one for each word. -/
theorem specWordsDecode : Obligations.SpecWordsDecode := by
  refine ⟨?_, ?_, ?_, ?_, ?_, ?_, ?_, ?_, ?_, ?_⟩ <;> decide

namespace Machine

/-- R79, R192: the port raises ILLEGAL_COMMAND on a command that does not decode. -/
theorem runCommand_of_error {c : Command} {e : DecodeError} (h : decode c = .error e) (s : State) :
    runCommand c s = raiseFault .illegalCommand s := by
  simp only [runCommand, h]

/-- Settles O8: an illegal byte fails one of the decoder's two checks, and the port raises
ILLEGAL_COMMAND, whose bit is bit 0. -/
theorem reservedByteOnlySetsFaultBitZero : Obligations.ReservedByteOnlySetsFaultBitZero := by
  intro s c rest illegal
  obtain ⟨e, hdec⟩ : ∃ e, decode c = .error e := by
    by_cases hop : c.byte.toNat % 16 = 0 ∨ 12 ≤ c.byte.toNat % 16
    · exact ⟨_, (decode_eq_reservedOpcode_iff c).mpr hop⟩
    · exact ⟨_, (decode_eq_nonzeroArg4_iff c).mpr (by omega)⟩
  rw [step_command, runCommand_of_error hdec]
  exact raiseFault_eq .illegalCommand _

end Machine

end Sys2Proof
end

section
/-! PROOF. The default codec tables. The ranges of their entries are those of any legal parameters; what
the spec says beyond that of the default values is computed from them. -/

namespace Sys2Proof

/-- R91 (b), over the whole table. -/
theorem Config.stepTable_mem_range {c : Config} (h : c.wellFormed = true) :
    ∀ x ∈ c.stepTable.toList, 7 ≤ x ∧ x ≤ 32767 := by
  intro x hx
  obtain ⟨k, hk, rfl⟩ := Vector.mem_iff_getElem.mp (Vector.mem_toList_iff.mp hx)
  exact Config.stepTable_range h ⟨k, hk⟩

/-- R93 (b), over the whole table. -/
theorem Config.indexTable_mem_values {c : Config} (h : c.wellFormed = true) :
    ∀ x ∈ c.indexTable.toList, x ∈ ([-1, 2, 4, 6, 8] : List Int) := by
  intro x hx
  simp only [Config.wellFormed, indexTableOk, Bool.and_eq_true] at h
  obtain ⟨⟨⟨⟨-, hvalues, -⟩, -⟩, -⟩, -⟩ := h
  simpa using List.all_eq_true.mp hvalues x hx

/-- R90: the default steps rise strictly, since each is under the next one. -/
theorem defaultStepTable_pairwise_lt : defaultStepTable.toList.Pairwise (· < ·) := by
  have adjacent : defaultStepTable.toList.IsChain (· < ·) := by
    simp [defaultStepTable, stepRows]
  exact adjacent.pairwise

/-- R90: the checksum of the transcription. -/
theorem defaultStepTable_sum : defaultStepTable.toList.sum = 360393 := by decide

/-- R92: the default index table uses every value that R93 (b) allows. -/
theorem defaultIndexTable_uses_every_value :
    ∀ x ∈ ([-1, 2, 4, 6, 8] : List Int), x ∈ defaultIndexTable.toList := by decide

/-- Settles O1: the default parameters are legal, which gives the ranges; order, checksum and the use of
every index adjustment are those of the default values. -/
theorem defaultTablesMeetConstraints : Obligations.DefaultTablesMeetConstraints := by
  have legal := defaultConfig_wellFormed
  have steps := Config.stepTable_mem_range legal
  have adjustments := Config.indexTable_mem_values legal
  exact ⟨⟨rfl, steps, defaultStepTable_pairwise_lt, rfl, rfl, defaultStepTable_sum⟩,
    rfl, adjustments, defaultIndexTable_uses_every_value, rfl⟩

end Sys2Proof
end

section
/-! PROOF. The decode commands: one code in plain arithmetic, a byte as its two codes, and the loop over a
buffer. -/

namespace Sys2Proof.Machine

/-! #### One code in plain arithmetic -/

theorem nibble_getLsbD_eq_true (n : Nibble) (i : Nat) :
    n.getLsbD i = true ↔ n.toNat / 2 ^ i % 2 = 1 := by
  simp [BitVec.getLsbD, Nat.testBit_eq_decide_div_mod_eq]

/-- The sign bit of a code (R103) as a bound on its value. -/
theorem nibble_getLsbD_three (n : Nibble) : n.getLsbD 3 = true ↔ 8 ≤ n.toNat := by
  rw [nibble_getLsbD_eq_true]
  omega

/-- R102, over the value of the code. -/
theorem magnitude_eq_of_toNat (step : Nat) (n : Nibble) :
    magnitude step n = step / 8 + (if n.toNat % 2 = 1 then step / 4 else 0) +
      (if n.toNat / 2 % 2 = 1 then step / 2 else 0) +
      (if n.toNat / 4 % 2 = 1 then step else 0) := by
  simp only [magnitude_eq, nibble_getLsbD_eq_true, pow_zero, pow_one, Nat.div_one, Nat.reducePow]

/-- R103, over the value of the code. -/
theorem difference_eq_of_toNat (step : Nat) (n : Nibble) :
    difference step n = if 8 ≤ n.toNat then -(magnitude step n : Int) else magnitude step n := by
  simp only [difference, nibble_getLsbD_three]

/-- R101, R104: the new predictor. -/
theorem decodeState_pred (cfg : Config) (n : Nibble) (d : DecoderState) :
    (decodeState cfg n d).pred =
      max (-128) (min 127 (d.pred + difference cfg.stepTable[d.sidx] n)) :=
  clamp_eq_max_min (by decide) _

/-- R105: the new step index. -/
theorem decodeState_sidx_val (cfg : Config) (n : Nibble) (d : DecoderState) :
    ((decodeState cfg n d).sidx.val : Int) =
      max 0 (min 88 ((d.sidx.val : Int) + cfg.indexTable[n.toFin])) :=
  (clampIndex_val _).trans (clamp_eq_max_min (by decide) _)

/-- R110: DECODE_NIB with no task active, from the new decoder state. -/
theorem exec_decodeNib_of_decodeState {s : State} (off : s.seqPhase = .off) {n : Nibble}
    {d : DecoderState} (h : decodeState s.cfg n s.dec = d) :
    exec (.decodeNib n) s = .next { s with dec := d, response := some (.sample (sampleOf d)) } :=
  h ▸ execDecodeNib_idle off n

/-- Settles O13: the magnitude is a sum of quotients chosen by the bits of the code, and both clamps are
a maximum of a minimum. -/
theorem decodeNibResult : Obligations.DecodeNibResult := by
  intro n s off
  refine ⟨(decodeState s.cfg n s.dec).pred, (decodeState s.cfg n s.dec).sidx, ?_,
    decodeState_sidx_val .., exec_decodeNib_of_decodeState off rfl⟩
  rintro step mag rfl rfl
  rw [decodeState_pred, difference_eq_of_toNat, magnitude_eq_of_toNat]
  push_cast
  rfl

/-- L1-1: every legal pair of tables has step 7 at index 0 and adjustment 8 for code 0xF. -/
theorem decodeState_fifteen_of_zero {cfg : Config} (legal : cfg.wellFormed = true) :
    decodeState cfg 0xF#4 ⟨0, 0⟩ = ⟨-11, 8⟩ := by
  obtain ⟨hstep, hindex, -⟩ := Config.wellFormed_facts legal
  have hindex : cfg.indexTable[(0xF#4 : Nibble).toFin] = 8 := hindex
  simp only [decodeState, hstep, hindex]
  decide

/-- L1-2: with step 7 the code 0 has no term that is not rounded to zero. -/
theorem decodeState_zero_of_zero {cfg : Config} (legal : cfg.wellFormed = true) {p : Int}
    (lower : -128 ≤ p) (upper : p ≤ 127) : ∃ k, decodeState cfg 0x0#4 ⟨p, 0⟩ = ⟨p, k⟩ := by
  obtain ⟨hstep, -⟩ := Config.wellFormed_facts legal
  have hdiff : difference 7 0x0#4 = 0 := by decide
  have hpred : (decodeState cfg 0x0#4 ⟨p, 0⟩).pred = p := by
    rw [decodeState_pred, hstep, hdiff, add_zero, min_eq_right upper, max_eq_right lower]
  exact ⟨_, congrArg (DecoderState.mk · _) hpred⟩

/-- Settles O14: both worked nibbles start at index 0, where every legal step table holds 7. -/
theorem workedNibbleExamples : Obligations.WorkedNibbleExamples := by
  intro s legal off
  refine ⟨fun hdec => ?_, fun p lower upper hdec => ?_⟩
  · exact exec_decodeNib_of_decodeState off (hdec ▸ decodeState_fifteen_of_zero legal)
  · obtain ⟨k, hk⟩ := decodeState_zero_of_zero legal lower upper
    exact ⟨k, exec_decodeNib_of_decodeState off (hdec ▸ hk)⟩

/-! #### Saturation -/

/-- R90, R104: from index 36 on the default steps are at least 230. -/
theorem le_defaultStepTable_getElem {k : Fin 89} (hk : 36 ≤ k.val) : 230 ≤ defaultStepTable[k] := by
  revert k
  decide

/-- R102, R104: a step of 230 with magnitude bit 2 exceeds the width of the predictor's range. -/
theorem magnitude_ge_of_bit_two {step : Nat} {n : Nibble} (hstep : 230 ≤ step)
    (bit : n.toNat / 4 % 2 = 1) : 258 ≤ magnitude step n := by
  rw [magnitude_eq_of_toNat, if_pos bit]
  omega

/-- R104: a magnitude wider than the predictor's range sends every legal predictor to an end of it. -/
theorem decodeState_pred_of_magnitude_ge {cfg : Config} {n : Nibble} {d : DecoderState}
    (lower : -128 ≤ d.pred) (upper : d.pred ≤ 127)
    (wide : 255 ≤ magnitude cfg.stepTable[d.sidx] n) :
    (decodeState cfg n d).pred = if 8 ≤ n.toNat then -128 else 127 := by
  rw [decodeState_pred, difference_eq_of_toNat]
  split <;> omega

/-- Settles O19: the selected step and its eighth are together wider than the predictor's range. -/
theorem largeStepSaturatesPredictor : Obligations.LargeStepSaturatesPredictor := by
  intro n s off htable lower upper hsidx bit
  have hstep : 230 ≤ s.cfg.stepTable[s.dec.sidx] := htable ▸ le_defaultStepTable_getElem hsidx
  have hpred := decodeState_pred_of_magnitude_ge lower upper
    (le_trans (by decide) (magnitude_ge_of_bit_two hstep bit))
  refine ⟨_, exec_decodeNib_of_decodeState off rfl, hpred, ?_⟩
  simp only [sampleOf, hpred]
  split <;> rfl

/-! #### Buffers -/

/-- R53: the code decoded first, over the value of the byte. -/
theorem lowNibble_eq_ofNat (b : Byte) : lowNibble b = BitVec.ofNat 4 (b.toNat % 16) := by
  apply BitVec.eq_of_toNat_eq
  simp [lowNibble, BitVec.extractLsb'_toNat]

/-- R53: the code decoded second, over the value of the byte. -/
theorem highNibble_eq_ofNat (b : Byte) : highNibble b = BitVec.ofNat 4 (b.toNat / 16) := by
  apply BitVec.eq_of_toNat_eq
  simp [highNibble, BitVec.extractLsb'_toNat, Nat.shiftRight_eq_div_pow]

/-- R109: of the parameters, the decode primitive reads the two tables only. -/
theorem decodeState_congr {cfg cfg' : Config} (hstep : cfg.stepTable = cfg'.stepTable)
    (hindex : cfg.indexTable = cfg'.indexTable) : decodeState cfg = decodeState cfg' := by
  funext n d
  simp only [decodeState, hstep, hindex]

/-- R109: of the parameters, the loop reads the two tables only. -/
theorem decodeBytes_congr {cfg cfg' : Config} (hstep : cfg.stepTable = cfg'.stepTable)
    (hindex : cfg.indexTable = cfg'.indexTable) (buf : Buffer) (d : DecoderState) :
    decodeBytes cfg buf d = decodeBytes cfg' buf d := by
  induction buf generalizing d with
  | nil => rfl
  | cons b rest ih => simp only [decodeBytes_cons, decodeState_congr hstep hindex, ih]

/-- Settles O15: the samples are those of the loop of R111, two for each pass. -/
theorem decodeBufAnswersTwoSamplesPerByte : Obligations.DecodeBufAnswersTwoSamplesPerByte := by
  intro buf s off
  refine ⟨_, _, execDecodeBuf_idle off buf, decodeBytes_length .., decodeBytes_samples_le _ _ _, ?_⟩
  rintro rfl
  rfl

/-- Settles O16: one pass of the loop of R111 is a DECODE_NIB for each code of the byte. -/
theorem decodeBufIsNibblesInOrder : Obligations.DecodeBufIsNibblesInOrder := by
  intro b rest s off
  rw [← lowNibble_eq_ofNat, ← highNibble_eq_ofNat]
  refine ⟨_, _, _, _, _, _, execDecodeNib_idle off _, rfl, execDecodeNib_idle (by exact off) _, rfl,
    execDecodeBuf_idle (by exact off) rest, rfl, ?_⟩
  exact execDecodeBuf_idle off (b :: rest)

/-- Settles O17: the loop over a concatenation is the loop over its parts, with one decoder state. -/
theorem decodingIsStreamContinuous : Obligations.DecodingIsStreamContinuous := by
  intro a b s off
  refine ⟨_, _, _, _, execDecodeBuf_idle off a, rfl, execDecodeBuf_idle (by exact off) b, rfl, ?_⟩
  exact (execDecodeBuf_idle off (a ++ b)).trans (by rw [decodeBytes_append])

/-- Settles O18: both runs are the loop over the same tables from the same decoder state. -/
theorem decodingDependsOnDecoderStateAlone : Obligations.DecodingDependsOnDecoderStateAlone := by
  intro buf s t offs offt hstep hindex hdec
  have hloop : decodeBytes s.cfg buf s.dec = decodeBytes t.cfg buf t.dec := by
    rw [hdec, decodeBytes_congr hstep hindex]
  refine ⟨_, _, execDecodeBuf_idle offs buf, execDecodeBuf_idle offt buf, ?_, ?_⟩
  · exact congrArg Prod.fst hloop
  · exact congrArg (fun r => some (Response.samples r.2)) hloop

end Sys2Proof.Machine
end

section
/-! PROOF. The queue: CLEAR_QUEUE, and a session that plays all that is queued as one stream. -/

namespace Sys2Proof.Machine

/-- Settles O32: the command empties the queue and ends with no response. -/
theorem clearQueueResult : Obligations.ClearQueueResult :=
  fun s => finish_eq (clearQueue s)

/-! #### The queue as one stream of bytes -/

/-- R162, R170: a fetch of a Playing engine runs dry, or plays the first byte of the first buffer that is
not empty. -/
theorem fetchBody_of_continues {s : State} (hc : s.continues = true) :
    ((∀ b ∈ s.queue, b = []) ∧
      fetchBody s = .next (exitTask { s with queue := [], playing := false })) ∨
    ∃ k b bs rest, s.queue = List.replicate k [] ++ (b :: bs) :: rest ∧
      fetchBody s =
        .next { playCode (lowNibble b) { s with queue := rest, curBuf := b :: bs, byteIdx := 0 } with
                seqPhase := .waitLo } := by
  obtain ⟨t, ht⟩ := fetchBody_next s
  obtain ⟨-, -, notAborted⟩ := (continues_iff s).1 hc
  rcases fetchBody_cases ht with ⟨aborted, -⟩ | ⟨-, stops, -⟩ | ⟨-, stops, -⟩ | ⟨-, empty, rfl⟩ |
    ⟨-, k, b, bs, rest, hq, rfl⟩
  · simp [notAborted] at aborted
  · simp [hc] at stops
  · simp [hc] at stops
  · exact .inl ⟨empty, ht⟩
  · exact .inr ⟨k, b, bs, rest, hq, ht⟩

/-- R170: a Playing engine whose queue holds no byte runs dry in one fetch. -/
theorem fetchBody_of_flatten_nil {s : State} (hc : s.continues = true)
    (hq : s.queue.flatten = []) :
    fetchBody s = .next (exitTask { s with queue := [], playing := false }) := by
  rcases fetchBody_of_continues hc with ⟨-, hfetch⟩ | ⟨k, b, bs, rest, hne, -⟩
  · exact hfetch
  · simp [hne] at hq

/-- R162, R170: a Playing engine fetches past the empty buffers to the first byte of the queue. -/
theorem fetchBody_of_flatten_cons {s : State} (hc : s.continues = true) {b : Byte} {bs : Buffer}
    (hq : s.queue.flatten = b :: bs) :
    ∃ (q : List Buffer) (more : Buffer), more ++ q.flatten = bs ∧
      fetchBody s =
        .next { playCode (lowNibble b) { s with queue := q, curBuf := b :: more, byteIdx := 0 } with
                seqPhase := .waitLo } := by
  rcases fetchBody_of_continues hc with ⟨empty, -⟩ | ⟨k, b', more, q, hne, hfetch⟩
  · simp [List.flatten_eq_nil_iff.2 empty] at hq
  · obtain ⟨rfl, hbs⟩ : b' = b ∧ more ++ q.flatten = bs := by simpa [hne] using hq
    exact ⟨q, more, hbs, hfetch⟩

/-- The bytes a session has yet to begin, in two of its phases: the queue's when it is about to fetch,
and before them the rest of the current buffer when it has played both codes of a byte. -/
inductive State.Upcoming (s : State) : Buffer → Prop
  | scheduled (hp : s.seqPhase = .fetch) : Upcoming s s.queue.flatten
  | afterByte (hp : s.seqPhase = .waitHi) (inside : s.byteIdx < s.curBuf.length) :
      Upcoming s (s.curBuf.drop (s.byteIdx + 1) ++ s.queue.flatten)

/-- R168, R170: the sequencer's next turn fetches, with the queue's bytes upcoming, or goes on to the
next byte of the current buffer. -/
theorem State.Upcoming.seqTurn_fetches_or_goes_on {s : State} {stream : Buffer}
    (hc : s.continues = true) (h : s.Upcoming stream) :
    (s.queue.flatten = stream ∧ seqTurn s = fetchBody s) ∨
    ∃ b, s.curBuf[s.byteIdx + 1]? = some b ∧
      stream = b :: (s.curBuf.drop (s.byteIdx + 1 + 1) ++ s.queue.flatten) ∧
      seqTurn s =
        .next { playCode (lowNibble b) { s with byteIdx := s.byteIdx + 1 } with
                seqPhase := .waitLo } := by
  cases h with
  | scheduled hp => exact .inl ⟨rfl, seqTurn_of_fetch hp⟩
  | afterByte hp inside =>
    rw [seqTurn_of_waitHi hp]
    by_cases hend : s.byteIdx + 1 = s.curBuf.length
    · exact .inl ⟨by simp [hend], seqHiDone_endOfBuffer hc hend⟩
    · have hlt : s.byteIdx + 1 < s.curBuf.length := by omega
      have hb := List.getElem?_eq_getElem hlt
      exact .inr ⟨_, hb, by rw [List.drop_eq_getElem_cons hlt, List.cons_append],
        seqHiDone_nextByte hc hb⟩

/-- R171: with no byte upcoming, the sequencer's next turn ends the session. -/
theorem State.Upcoming.seqTurn_of_nil {s : State} (hc : s.continues = true) (h : s.Upcoming []) :
    seqTurn s = .next (exitTask { s with queue := [], playing := false }) := by
  rcases h.seqTurn_fetches_or_goes_on hc with ⟨hq, hturn⟩ | ⟨b, -, hne, -⟩
  · exact hturn.trans (fetchBody_of_flatten_nil hc hq)
  · cases hne

/-- R162, R168: the sequencer's next turn plays the low nibble of the first upcoming byte. -/
theorem State.Upcoming.seqTurn_of_cons {s : State} {b : Byte} {bs : Buffer}
    (hc : s.continues = true) (h : s.Upcoming (b :: bs)) :
    ∃ (q : List Buffer) (cur : Buffer) (k : Nat),
      cur[k]? = some b ∧ cur.drop (k + 1) ++ q.flatten = bs ∧
      seqTurn s =
        .next { playCode (lowNibble b) { s with queue := q, curBuf := cur, byteIdx := k } with
                seqPhase := .waitLo } := by
  rcases h.seqTurn_fetches_or_goes_on hc with ⟨hq, hturn⟩ | ⟨b', hb, hstream, hturn⟩
  · obtain ⟨q, more, hbs, hfetch⟩ := fetchBody_of_flatten_cons hc hq
    exact ⟨q, b :: more, 0, rfl, hbs, hturn.trans hfetch⟩
  · obtain ⟨rfl, rfl⟩ := List.cons.inj hstream
    exact ⟨s.queue, s.curBuf, s.byteIdx + 1, hb, rfl, hturn⟩

/-! #### A session left alone -/

/-- R167: two steps with no input play both codes of the first upcoming byte, and the bytes after it
are upcoming. -/
theorem State.Upcoming.two_steps_of_cons {s : State} {b : Byte} {bs : Buffer}
    (hi : s.inputs = []) (hc : s.continues = true) (h : s.Upcoming (b :: bs)) :
    ∃ (q : List Buffer) (cur : Buffer) (k : Nat) (t : State),
      t = { playCode (highNibble b) (playCode (lowNibble b) s) with
            queue := q, curBuf := cur, byteIdx := k, seqPhase := .waitHi } ∧
      t.Upcoming bs ∧
      ∀ m, Sys2Proof.core.run (m + 1 + 1) s = Sys2Proof.core.run m t := by
  obtain ⟨q, cur, k, hb, hbs, hlow⟩ := h.seqTurn_of_cons hc
  obtain ⟨inside, -⟩ := List.getElem?_eq_some_iff.1 hb
  refine ⟨q, cur, k, _, rfl, hbs ▸ .afterByte rfl inside, fun m => ?_⟩
  have low := (step_of_nil hi).trans hlow
  refine (run_succ _ low).trans (run_succ _ ?high)
  exact (step_of_nil (by exact hi)).trans
    ((seqTurn_of_waitLo (by rfl)).trans (seqLoDone_eq (by exact hb)))

/-- The state in which a session ends that was left alone with the given bytes upcoming: they have been
decoded as one stream, and each sample written, scaled, with one sample period after it. -/
def State.playedOut (s : State) (stream : Buffer) : State :=
  { s with
    dec := (decodeBytes s.cfg stream s.dec).1
    playing := false, queue := [], seqPhase := .off, curBuf := [], byteIdx := 0
    abortReq := false, startPend := false
    trace := s.trace ++ (decodeBytes s.cfg stream s.dec).2.flatMap fun x =>
      [.write s.pin (x * s.vol / 256), .wait (1000000 / s.rate)] }

/-- R171: a session that has no byte left ends. -/
theorem State.playedOut_nil (s : State) :
    s.playedOut [] = exitTask { s with queue := [], playing := false } := by
  simp [playedOut, exitTask]

/-- The first byte of the stream is two codes played, wherever the position then is. -/
theorem State.playedOut_cons (s : State) (b : Byte) (bs : Buffer) (q : List Buffer) (cur : Buffer)
    (k : Nat) (ph : SeqPhase) :
    s.playedOut (b :: bs) =
      State.playedOut
        { playCode (highNibble b) (playCode (lowNibble b) s) with
          queue := q, curBuf := cur, byteIdx := k, seqPhase := ph } bs := by
  simp [playedOut, decodeBytes_cons, playCode_eq]

/-- R170, R174: a session left alone plays its upcoming bytes, two turns for each, and ends in the turn
after them. -/
theorem State.Upcoming.run_eq_playedOut {s : State} {stream : Buffer} (hi : s.inputs = [])
    (hc : s.continues = true) (h : s.Upcoming stream) :
    Sys2Proof.core.run (2 * stream.length + 1) s = .next (s.playedOut stream) := by
  induction stream generalizing s with
  | nil =>
    have last : step s = .next (s.playedOut []) := by
      rw [step_of_nil hi, h.seqTurn_of_nil hc, playedOut_nil]
    exact (run_succ 0 last).trans (run_zero _)
  | cons b bs ih =>
    obtain ⟨q, cur, k, t, rfl, upcoming, two⟩ := h.two_steps_of_cons hi hc
    calc Sys2Proof.core.run (2 * (b :: bs).length + 1) s
      _ = Sys2Proof.core.run (2 * bs.length + 1) _ := two (2 * bs.length + 1)
      _ = .next (State.playedOut _ bs) := ih (by exact hi) (by exact hc) upcoming
      _ = .next (s.playedOut (b :: bs)) := by rw [← playedOut_cons]

/-- Settles O46: a scheduled session has the whole queue upcoming, and DECODE_BUF runs the same loop over
the same bytes. -/
theorem sessionPlaysWholeQueueInOrder : Obligations.SessionPlaysWholeQueueInOrder := by
  intro s hi hp playing going notAborted
  have hc : s.continues = true := (continues_iff s).2 ⟨playing, going, notAborted⟩
  refine ⟨_, _, execDecodeBuf_idle (by exact rfl) s.queue.flatten, rfl, ?_⟩
  rw [Nat.add_comm]
  exact (State.Upcoming.scheduled hp).run_eq_playedOut hi hc

end Sys2Proof.Machine
end

section
/-! PROOF. The control and configuration commands: what each does to the state, when the engine state
changes, and what STOP leaves a running task to do. -/

namespace Sys2Proof.Machine

/-! #### PLAY and QUEUE -/

/-- R121: an unbounded queue is never full, and a bounded one is full from its capacity on. -/
theorem queueFull_eq_false_iff (s : State) :
    queueFull s = false ↔ ∀ cap, s.cfg.queueCap = some cap → s.queue.length < cap := by
  simp [← Bool.not_eq_true, queueFull_iff]

/-- R121: a legal capacity leaves room in an empty queue. -/
theorem queueFull_of_nil {s : State} (legal : s.cfg.wellFormed = true) (empty : s.queue = []) :
    queueFull s = false := by
  obtain ⟨-, -, -, -, positive⟩ := Config.wellFormed_facts legal
  refine (queueFull_eq_false_iff s).2 fun cap hcap => ?_
  rw [empty]
  exact positive cap hcap

/-- R131: with `PLAYING` set the buffer is appended and no session begins. -/
theorem enqueueAndStart_playing {s : State} (room : queueFull s = false) (playing : s.playing = true)
    (b : Buffer) :
    enqueueAndStart b s = .next { s with queue := s.queue ++ [b], response := none } := by
  simp [enqueueAndStart, room, playing, appendBuffer, respond]

/-- R130, R131: with no task active a session begins and its task is scheduled. -/
theorem enqueueAndStart_idle_off {s : State} (room : queueFull s = false) (idle : s.playing = false)
    (off : s.seqPhase = .off) (b : Buffer) :
    enqueueAndStart b s =
      .next { s with
              queue := s.queue ++ [b], playing := true, seqPhase := .fetch, response := none } := by
  simp [enqueueAndStart, room, idle, start, off, appendBuffer, scheduleTask, respond]

/-- R130, R131: with an old task active a session begins and its start is deferred. -/
theorem enqueueAndStart_idle_active {s : State} (room : queueFull s = false)
    (idle : s.playing = false) (active : s.seqPhase ≠ .off) (b : Buffer) :
    enqueueAndStart b s =
      .next { s with
              queue := s.queue ++ [b], playing := true, startPend := true, response := none } := by
  simp [enqueueAndStart, room, idle, start, active, appendBuffer, respond]

/-- Settles O21: PLAY and QUEUE are one operation, and each case is one branch of it. -/
theorem playAndQueueResult : Obligations.PlayAndQueueResult := by
  intro buf s i hi hroom
  have room : queueFull s = false := (queueFull_eq_false_iff s).2 hroom
  have hexec : exec i s = enqueueAndStart buf s := by rcases hi with rfl | rfl <;> rfl
  rw [hexec]
  exact ⟨fun playing => enqueueAndStart_playing room playing buf,
    fun idle off => enqueueAndStart_idle_off room idle off buf,
    fun idle active => enqueueAndStart_idle_active room idle active buf⟩

/-! #### STOP -/

/-- Settles O23: the two spellings of the abort latch are one disjunction. -/
theorem stopResult : Obligations.StopResult := by
  intro s
  rw [Bool.or_comm]
  exact execStop_eq s

/-- Settles O24: STOP resets the decoder state and keeps the parameters, which is all a decode reads. -/
theorem decodeAfterStopIsFresh : Obligations.DecodeAfterStopIsFresh := by
  intro buf s off
  exact ⟨_, _, _, execStop_eq s, execDecodeBuf_idle (by exact off) buf,
    execDecodeBuf_idle (by exact rfl) buf, rfl, rfl⟩

/-! #### PAUSE and RESUME -/

/-- R134: PAUSE when Playing. -/
theorem execPause_playing {s : State} (playing : s.playing = true) (going : s.paused = false) :
    execPause s = .next { s with paused := true, response := none } := by
  simp [execPause, playing, going, respond]

/-- R134: PAUSE in Idle or Paused. -/
theorem execPause_ignored {s : State} (h : s.playing = false ∨ s.paused = true) :
    execPause s = .next { s with response := none } := by
  rcases h with idle | waiting
  · simp [execPause, idle, respond]
  · simp [execPause, waiting, respond]

/-- R135: RESUME when Paused with no task active. -/
theorem execResume_off {s : State} (playing : s.playing = true) (waiting : s.paused = true)
    (off : s.seqPhase = .off) :
    execResume s = .next { s with paused := false, seqPhase := .fetch, response := none } := by
  simp [execResume, playing, waiting, off, scheduleTask, respond]

/-- R135: RESUME when Paused with the task still active. -/
theorem execResume_active {s : State} (playing : s.playing = true) (waiting : s.paused = true)
    (active : s.seqPhase ≠ .off) :
    execResume s = .next { s with paused := false, response := none } := by
  simp [execResume, playing, waiting, active, respond]

/-- R135: RESUME in Idle or Playing. -/
theorem execResume_ignored {s : State} (h : s.playing = false ∨ s.paused = false) :
    execResume s = .next { s with response := none } := by
  rcases h with idle | going
  · simp [execResume, idle, respond]
  · simp [execResume, going, respond]

/-- Settles O25: the two branches of R134. -/
theorem pauseResult : Obligations.PauseResult :=
  fun _ => ⟨execPause_playing, execPause_ignored⟩

/-- Settles O26: the three branches of R135. -/
theorem resumeResult : Obligations.ResumeResult :=
  fun _ => ⟨execResume_off, execResume_active, execResume_ignored⟩

/-! #### The engine state -/

/-- R27, Idle: no session, whatever `PAUSED` is. -/
theorem engine_eq_idle_iff (s : State) : s.engine = .idle ↔ s.playing = false := by
  cases hp : s.playing <;> cases hq : s.paused <;> simp [State.engine, hp, hq]

/-- R27, Playing: a session that is not suspended. -/
theorem engine_eq_playing_iff (s : State) :
    s.engine = .playing ↔ s.playing = true ∧ s.paused = false := by
  cases hp : s.playing <;> cases hq : s.paused <;> simp [State.engine, hp, hq]

/-- R27, Paused: a session that is suspended. -/
theorem engine_eq_paused_iff (s : State) :
    s.engine = .paused ↔ s.playing = true ∧ s.paused = true := by
  cases hp : s.playing <;> cases hq : s.paused <;> simp [State.engine, hp, hq]

/-- Settles O27: a Playing engine has a task (R28 (b)), so RESUME only clears the flag that PAUSE set. -/
theorem pauseThenResumeIsNoChange : Obligations.PauseThenResumeIsNoChange := by
  intro s hs hplaying
  obtain ⟨playing, going⟩ := (engine_eq_playing_iff s).1 hplaying
  have active : s.seqPhase ≠ .off := hs.playingIsActive playing going
  refine ⟨_, execPause_playing playing going, (engine_eq_paused_iff _).2 ⟨playing, rfl⟩, ?_⟩
  rw [going]
  exact execResume_active (by exact playing) (by exact rfl) (by exact active)

/-- R162, R169: a turn of the sequencer changes the engine state only where a Playing engine runs dry. -/
theorem seqTurn_engine {s t : State} (h : seqTurn s = .next t) (hne : t.engine ≠ s.engine) :
    (s.seqPhase = .fetch ∨ s.seqPhase = .waitHi) ∧ t.queue = [] ∧
      s.engine = .playing ∧ t.engine = .idle := by
  rcases seqTurn_ends_or_plays h with ⟨-, rfl⟩ |
    ⟨-, q, p, -, rfl | ⟨rfl, rfl, hc, hphase⟩, rfl⟩ | ⟨-, n, q, cb, bi, ph, -, rfl⟩
  · exact absurd rfl hne
  · exact absurd rfl hne
  · obtain ⟨playing, going, -⟩ := (continues_iff s).1 hc
    exact ⟨hphase, rfl, (engine_eq_playing_iff s).2 ⟨playing, going⟩, rfl⟩
  · exact absurd rfl hne

/-- R139: the commands that change the engine state, and how. That PLAY and QUEUE lead to Playing rests
on R28 (a). -/
theorem CommandEffect.engine {s t : State} {i : Instr} (h : CommandEffect s i t)
    (pausedIsPlaying : s.paused = true → s.playing = true) (hne : t.engine ≠ s.engine) :
    (∃ buf, (i = .play buf ∨ i = .queue buf) ∧ s.engine = .idle ∧ t.engine = .playing) ∨
    (i = .pause ∧ s.engine = .playing ∧ t.engine = .paused) ∨
    (i = .resume ∧ s.engine = .paused ∧ t.engine = .playing) ∨
    (i = .stop ∧ t.engine = .idle) := by
  have going_of_idle : s.playing = false → s.paused = false := fun idle => by
    simpa [idle] using pausedIsPlaying
  cases h with
  | begun b hi room idle off =>
    exact .inl ⟨b, hi, (engine_eq_idle_iff s).2 idle,
      (engine_eq_playing_iff _).2 ⟨rfl, going_of_idle idle⟩⟩
  | deferred b hi room idle active =>
    exact .inl ⟨b, hi, (engine_eq_idle_iff s).2 idle,
      (engine_eq_playing_iff _).2 ⟨rfl, going_of_idle idle⟩⟩
  | stopped => exact .inr (.inr (.inr ⟨rfl, rfl⟩))
  | paused playing going =>
    exact .inr (.inl ⟨rfl, (engine_eq_playing_iff s).2 ⟨playing, going⟩,
      (engine_eq_paused_iff _).2 ⟨playing, rfl⟩⟩)
  | resumedOff playing waiting off =>
    exact .inr (.inr (.inl ⟨rfl, (engine_eq_paused_iff s).2 ⟨playing, waiting⟩,
      (engine_eq_playing_iff _).2 ⟨playing, rfl⟩⟩))
  | resumedActive playing waiting active =>
    exact .inr (.inr (.inl ⟨rfl, (engine_eq_paused_iff s).2 ⟨playing, waiting⟩,
      (engine_eq_playing_iff _).2 ⟨playing, rfl⟩⟩))
  | _ => exact absurd rfl hne

/-- Settles O55: by the input: the sequencer where the engine runs dry, a command of R139's table, or
reset. -/
theorem engineChangesOnlyAsListed : Obligations.EngineChangesOnlyAsListed := by
  intro s t hs h hne
  rcases step_cases h with ⟨hin, h⟩ | ⟨rest, hin, h⟩ | ⟨c, rest, i, hin, hd, h⟩ |
    ⟨c, rest, e, -, -, rfl⟩ | ⟨rest, hin, rfl⟩
  · obtain ⟨hphase, hq, before, after⟩ := seqTurn_engine h hne
    exact .inr (.inr (.inr (.inr (.inl ⟨.inl hin, hphase, hq, before, after⟩))))
  · obtain ⟨hphase, hq, before, after⟩ := seqTurn_engine h hne
    exact .inr (.inr (.inr (.inr (.inl ⟨.inr ⟨rest, hin⟩, hphase, hq, before, after⟩))))
  · rcases (exec_effect h).engine hs.pausedIsPlaying hne with
      ⟨buf, rfl | rfl, before, after⟩ | ⟨rfl, before, after⟩ | ⟨rfl, before, after⟩ | ⟨rfl, after⟩
    · exact .inl ⟨c, rest, buf, hin, .inl hd, before, after⟩
    · exact .inl ⟨c, rest, buf, hin, .inr hd, before, after⟩
    · exact .inr (.inl ⟨c, rest, hin, hd, before, after⟩)
    · exact .inr (.inr (.inl ⟨c, rest, hin, hd, before, after⟩))
    · exact .inr (.inr (.inr (.inl ⟨c, rest, hin, hd, after⟩)))
  · exact absurd rfl hne
  · exact .inr (.inr (.inr (.inr (.inr ⟨rest, hin, rfl⟩))))

/-! #### The configuration commands -/

/-- Settles O28: the command writes the pin and ends with no response. -/
theorem setPinResult : Obligations.SetPinResult :=
  fun p s => finish_eq { s with pin := p }

/-- R137: SET_RATE with a positive operand. -/
theorem execSetRate_pos {r : Int} (pos : 0 < r) (s : State) :
    execSetRate r s = .next { s with rate := r.toNat, response := none } := by
  simp [execSetRate, pos, respond]

/-- Settles O29: a positive operand is its own natural number. -/
theorem setRateResult : Obligations.SetRateResult :=
  fun r s pos => ⟨r.toNat, Int.toNat_of_nonneg pos.le, execSetRate_pos pos s⟩

/-- Settles O31: the clamp is not negative, so its natural number is itself. -/
theorem setVolResult : Obligations.SetVolResult := by
  intro v s
  have bounds := clamp_bounds v (lo := 0) (hi := volMax) (by decide)
  exact ⟨(clamp v 0 volMax).toNat, Int.toNat_of_nonneg bounds.1, rfl⟩

/-! #### What STOP leaves to a running task -/

/-- R167: the turn that ends the wait after a low nibble plays the high nibble of the same byte. -/
theorem step_waitLo_plays {s : State} (low : s.seqPhase = .waitLo) {b : Byte}
    (hb : s.curBuf[s.byteIdx]? = some b) (rest : List Input) :
    step { s with inputs := .sequencer :: rest } =
      .next { playCode (highNibble b) { s with inputs := rest } with seqPhase := .waitHi } :=
  (step_waitLo low rest).trans (seqLoDone_eq hb)

/-- R172: the turn that ends the wait after a high nibble exits an aborted task. -/
theorem step_waitHi_aborted {s : State} (high : s.seqPhase = .waitHi) (aborted : s.abortReq = true)
    {rest : List Input} (hin : s.inputs = .sequencer :: rest) :
    step s = .next (exitTask { s with inputs := rest }) :=
  calc step s = seqHiDone { s with inputs := rest } :=
        (step_of_sequencer hin).trans (seqTurn_of_waitHi (by exact high))
    _ = .next (exitTask { s with inputs := rest }) :=
        seqHiDone_exit ((not_continues_iff _).2 (.inr (.inr aborted)))

/-- R110, R220: DECODE_NIB on a freshly reset block decodes from `{0, 0}`. -/
theorem execDecodeNib_resetWith (cfg : Config) (n : Nibble) :
    execDecodeNib n (State.resetWith cfg) =
      .next { State.resetWith cfg with
              dec := decodeState cfg n ⟨0, 0⟩
              response := some (.sample (sampleOf (decodeState cfg n ⟨0, 0⟩))) } :=
  execDecodeNib_idle rfl n

/-- The state after STOP and then PLAY with a task active: the old task, at its old position, is to
abort, and the new session waits for it. -/
def State.restarted (s : State) (buf : Buffer) : State :=
  { s with
    playing := true, paused := false, queue := [buf], trace := s.trace ++ [.write s.pin 0]
    dec := ⟨0, 0⟩, abortReq := true, startPend := true, response := none }

/-- R130, R133: STOP empties the queue, so the PLAY after it is not refused; the task is still active,
so the start is deferred. -/
theorem exec_stop_play {s : State} (legal : s.cfg.wellFormed = true) (active : s.seqPhase ≠ .off)
    (buf : Buffer) :
    ∃ t, exec .stop s = .next t ∧ exec (.play buf) t = .next (s.restarted buf) := by
  refine ⟨_, execStop_eq s, ?_⟩
  have latched : s.active = true := decide_eq_true active
  rw [latched]
  exact enqueueAndStart_idle_active (queueFull_of_nil (by exact legal) (by exact rfl)) (by exact rfl)
    (by exact active) buf

/-- Settles O44: STOP leaves the position and the phase alone, so SEQ_LO_DONE finds the byte and decodes
from the decoder state that STOP wrote. -/
theorem stopInLowWaitStillPlaysHighNibble : Obligations.StopInLowWaitStillPlaysHighNibble := by
  intro s rest b low hb
  have latched : s.active = true := decide_eq_true (by simp [low])
  rw [← highNibble_eq_ofNat]
  refine ⟨_, _, _, _, execStop_eq s, execDecodeNib_resetWith s.cfg _, rfl,
    step_waitLo_plays (by exact low) (by exact hb) rest, rfl, rfl, rfl, ?_, ?_⟩
  · simp [latched]
  · simp [playCode_eq]

/-- Settles O45: the abort latch ends the old task at the end of the wait after a high nibble, and the
deferred start makes the exit schedule the new session; after a low nibble the high one comes first. -/
theorem playAfterStopStartsWhenOldTaskExits : Obligations.PlayAfterStopStartsWhenOldTaskExits := by
  intro s rest buf hs
  refine ⟨fun high => ?_, fun b low hb => ?_⟩
  · obtain ⟨t, hstop, hplay⟩ := exec_stop_play hs.cfgOk (by simp [high]) buf
    exact ⟨t, _, _, hstop, hplay, high, rfl, step_waitHi_aborted (by exact high) rfl rfl,
      rfl, rfl, rfl, rfl, rfl, rfl, rfl, rfl⟩
  · obtain ⟨t, hstop, hplay⟩ := exec_stop_play hs.cfgOk (by simp [low]) buf
    rw [← highNibble_eq_ofNat]
    refine ⟨t, _, _, _, _, _, hstop, hplay, low, rfl, execDecodeNib_resetWith s.cfg _, rfl,
      step_waitLo_plays (by exact low) (by exact hb) _, rfl, rfl, step_waitHi_aborted rfl rfl rfl,
      rfl, rfl, rfl, rfl, rfl, rfl, rfl, ?_⟩
    simp [playCode_eq, State.restarted]

end Sys2Proof.Machine
end

section
/-! PROOF. The sequencer: its turns phase by phase, what a turn does to the outside, and that commands
leave its task alone. -/

namespace Sys2Proof.Machine

/-! #### Turns by phase -/

/-- R160: a turn that is offered, or taken when no input is left (log entry 5), is one of the state
without it. -/
theorem step_eq_seqTurn {s : State} {rest : List Input}
    (h : s.inputs = [] ∧ rest = [] ∨ s.inputs = .sequencer :: rest) :
    step s = seqTurn { s with inputs := rest } := by
  rcases h with ⟨hnil, rfl⟩ | hseq
  · rw [step_of_nil hnil, ← hnil]
  · exact step_of_sequencer hseq

/-- Settles O9: the turn takes its input off the list, and its phase names the step. -/
theorem sequencerTurnIsStepOfPhase : Obligations.SequencerTurnIsStepOfPhase := by
  intro s rest h
  rw [step_eq_seqTurn h]
  exact ⟨fun off => seqTurn_of_off (by exact off), fun fetch => seqTurn_of_fetch (by exact fetch),
    fun low => seqTurn_of_waitLo (by exact low), fun high => seqTurn_of_waitHi (by exact high)⟩

/-! #### Emit -/

/-- Settles O33: the intensity is the floor of the product over 256. -/
theorem emitScalesByVolume : Obligations.EmitScalesByVolume := by
  refine ⟨fun x s => ?_, fun _ _ => intensity_le, fun x => ?_, fun x pos hx => ?_,
    rfl, fun x => ?_⟩
  · simp [emit, timerWait, sinkWrite, intensity_eq, samplePeriod_eq]
  all_goals
    rw [intensity_eq]
    omega

/-! #### Turns that play a code -/

/-- Settles O34: the fetch plays the code that DECODE_NIB decodes from the same decoder state. -/
theorem seqFetchPlaysFirstLowNibble : Obligations.SeqFetchPlaysFirstLowNibble := by
  intro s rest b bs q fetch playing going notAborted hq
  have hc : s.continues = true := (continues_iff s).2 ⟨playing, going, notAborted⟩
  rw [← lowNibble_eq_ofNat]
  refine ⟨_, _, execDecodeNib_idle (by exact rfl) _, rfl, ?_⟩
  rw [step_fetch fetch, fetchBody_play (by exact hc) (by exact hq), playCode_eq]

/-- Settles O39: SEQ_LO_DONE reads the position alone, and plays the code DECODE_NIB would decode. -/
theorem seqLoDonePlaysHighNibble : Obligations.SeqLoDonePlaysHighNibble := by
  intro s rest b low hb
  rw [← highNibble_eq_ofNat]
  refine ⟨_, _, execDecodeNib_idle (by exact rfl) _, rfl, ?_⟩
  rw [step_waitLo_plays low hb, playCode_eq]

/-- Settles O40: the next byte is in the buffer, so the check plays its low nibble. -/
theorem seqHiDonePlaysNextByte : Obligations.SeqHiDonePlaysNextByte := by
  intro s rest b high playing going notAborted hb
  have hc : s.continues = true := (continues_iff s).2 ⟨playing, going, notAborted⟩
  rw [← lowNibble_eq_ofNat]
  refine ⟨_, _, execDecodeNib_idle (by exact rfl) _, rfl, ?_⟩
  rw [step_waitHi high, seqHiDone_nextByte (by exact hc) (by exact hb), playCode_eq]

/-! #### Turns that end the task -/

/-- R169: the exit, with the condition of the deferred start spelt out. -/
theorem exitTask_eq (s : State) :
    exitTask s =
      { s with
        seqPhase := if s.startPend = true ∧ s.playing = true ∧ s.paused = false then .fetch else .off
        curBuf := [], byteIdx := 0, abortReq := false, startPend := false } := by
  simp [exitTask]

/-- R169: an engine that is not Playing has no task scheduled by the exit. -/
theorem exitTask_of_not_playing {s : State} (h : (s.playing && !s.paused) = false) :
    exitTask s =
      { s with seqPhase := .off, curBuf := [], byteIdx := 0, abortReq := false, startPend := false } := by
  simp [exitTask, h]

/-- R162: a fetch that is not aborted and finds an empty queue leaves no task, and a Playing engine
Idle. -/
theorem fetchBody_runsDry {s : State} (notAborted : s.abortReq = false) (empty : s.queue = []) :
    fetchBody s =
      .next { s with
              playing := s.playing && s.paused, seqPhase := .off, curBuf := [], byteIdx := 0
              abortReq := false, startPend := false } := by
  rw [fetchBody_nil notAborted empty, exitTask_of_not_playing]
  simp [Bool.and_assoc]

/-- R172: SEQ_HI_DONE's turn exits when the continuation condition fails. -/
theorem step_waitHi_exits {s : State} (high : s.seqPhase = .waitHi) (stops : s.continues = false)
    {rest : List Input} (hin : s.inputs = .sequencer :: rest) :
    step s = .next (exitTask { s with inputs := rest }) :=
  calc step s = seqHiDone { s with inputs := rest } :=
        (step_of_sequencer hin).trans (seqTurn_of_waitHi (by exact high))
    _ = .next (exitTask { s with inputs := rest }) := seqHiDone_exit (by exact stops)

/-- Settles O35: the fetch runs dry. -/
theorem seqFetchOnEmptyQueueEndsTask : Obligations.SeqFetchOnEmptyQueueEndsTask := by
  intro s rest fetch notAborted empty
  rw [step_fetch fetch, fetchBody_runsDry (by exact notAborted) (by exact empty)]

/-- Settles O36: the abort is checked before the queue is looked at. -/
theorem seqFetchOfAbortedTaskExits : Obligations.SeqFetchOfAbortedTaskExits := by
  intro s rest fetch aborted
  rw [step_fetch fetch, fetchBody_aborted (by exact aborted), exitTask_eq]

/-- Settles O42: at the end of the buffer or inside it, the failing condition leads to the exit. -/
theorem seqHiDoneExitsWhenConditionFails : Obligations.SeqHiDoneExitsWhenConditionFails := by
  intro s rest high stops
  have hc : s.continues = false := (not_continues_iff s).2 stops
  rw [step_waitHi_exits (by exact high) (by exact hc) rfl, exitTask_eq]

/-- Settles O38: PAUSE makes the condition fail, so the fetch drops the buffer it has taken; the exit
leaves the block OFF and Paused, from where RESUME schedules. -/
theorem pauseBeforeFetchDropsFrontBuffer : Obligations.PauseBeforeFetchDropsFrontBuffer := by
  intro s rest b q fetch playing going notAborted hq
  refine ⟨_, _, execPause_playing playing going, ?turn, rfl,
    execResume_off (by exact playing) (by exact rfl) (by exact rfl)⟩
  rw [step_fetch (by exact fetch),
    fetchBody_drop (by exact notAborted) (by simp [State.continues]) (by exact hq),
    exitTask_of_not_playing (by simp)]
  simp [notAborted]

/-- Settles O43: SEQ_LO_DONE plays the high nibble with no check, and the check of the turn after it
exits. -/
theorem cancelledTaskWritesOneMoreSample : Obligations.CancelledTaskWritesOneMoreSample := by
  intro s rest hs low stops
  have hb := List.getElem?_eq_getElem (hs.waitingInBuffer (.inl low))
  have hc : s.continues = false := (not_continues_iff s).2 stops
  refine ⟨_, _, _, step_waitLo_plays low hb _, step_waitHi_exits rfl (by exact hc) rfl,
    List.append_assoc .., rfl, rfl, ?_⟩
  rw [exitTask_seqPhase]
  split
  · exact .inr rfl
  · exact .inl rfl

/-! #### Turns that pass from buffer to buffer -/

/-- R170: while the condition holds, a fetch passes over the empty buffers at the front. -/
theorem fetchBody_replicate_nil {s : State} (hc : s.continues = true) (k : Nat) (q : List Buffer) :
    fetchBody { s with queue := List.replicate k [] ++ q } = fetchBody { s with queue := q } := by
  induction k with
  | zero => rfl
  | succ k ih => exact (fetchBody_empty (by exact hc) rfl).trans ih

/-- Settles O37: the turn is a fetch on both queues. -/
theorem seqFetchPassesOverEmptyBuffers : Obligations.SeqFetchPassesOverEmptyBuffers := by
  intro s rest k q fetch playing going notAborted
  have hc : s.continues = true := (continues_iff s).2 ⟨playing, going, notAborted⟩
  have turn (q : List Buffer) : step { s with queue := q, inputs := .sequencer :: rest } =
      fetchBody { s with queue := q, inputs := rest } :=
    step_fetch (s := { s with queue := q }) fetch rest
  rw [turn, turn]
  exact fetchBody_replicate_nil (s := { s with inputs := rest }) hc k q

/-- Settles O41: at the end of the buffer the check fetches, and the fetch reads neither the position nor
the phase. -/
theorem seqHiDoneContinuesWithNextBuffer : Obligations.SeqHiDoneContinuesWithNextBuffer := by
  intro s rest high playing going notAborted hend
  have hc : s.continues = true := (continues_iff s).2 ⟨playing, going, notAborted⟩
  have hfetch : step { s with inputs := .sequencer :: rest } = fetchBody { s with inputs := rest } :=
    (step_waitHi high rest).trans (seqHiDone_endOfBuffer hc hend)
  refine ⟨?_, fun empty => ?_⟩
  · calc step { s with inputs := .sequencer :: rest }
      _ = fetchBody { s with inputs := rest } := hfetch
      _ = fetchBody { s with seqPhase := .fetch, inputs := rest } :=
        (fetchBody_phase (s := { s with inputs := rest }) hc .fetch).symm
      _ = step { s with seqPhase := .fetch, inputs := .sequencer :: rest } :=
        (step_fetch (s := { s with seqPhase := .fetch }) rfl rest).symm
  · rw [hfetch, fetchBody_runsDry (by exact notAborted) (by exact empty)]
    simp [going]

/-! #### What a turn does to the outside -/

/-- R164: what a turn of the sequencer shows: no event, or the write of one decoded code and its wait. -/
theorem seqTurn_output {s t : State} (h : seqTurn s = .next t) :
    (t.trace = s.trace ∧ t.dec = s.dec) ∨
    ∃ n, t.dec = decodeState s.cfg n s.dec ∧
      t.trace = s.trace ++
        [.write s.pin (sampleOf t.dec * s.vol / 256), .wait (1000000 / s.rate)] := by
  rcases seqTurn_ends_or_plays h with ⟨-, rfl⟩ | ⟨-, q, p, -, -, rfl⟩ |
    ⟨-, n, q, cb, bi, ph, -, rfl⟩
  · exact .inl ⟨rfl, rfl⟩
  · exact .inl ⟨rfl, rfl⟩
  · exact .inr ⟨n, rfl, by simp [playCode_eq]⟩

/-- R32, R41, R162, R191: what a turn of the sequencer leaves alone; the queue loses buffers at its front
only. -/
theorem seqTurn_frame {s t : State} (h : seqTurn s = .next t) :
    t.pin = s.pin ∧ t.rate = s.rate ∧ t.vol = s.vol ∧ t.paused = s.paused ∧
      t.faultReg = s.faultReg ∧ t.response = s.response ∧ t.inputs = s.inputs ∧
      t.queue <:+ s.queue := by
  rcases seqTurn_ends_or_plays h with ⟨-, rfl⟩ | ⟨-, q, p, hq, -, rfl⟩ |
    ⟨-, n, q, cb, bi, ph, hq, rfl⟩
  · exact ⟨rfl, rfl, rfl, rfl, rfl, rfl, rfl, List.suffix_rfl⟩
  · exact ⟨rfl, rfl, rfl, rfl, rfl, rfl, rfl, hq⟩
  · exact ⟨rfl, rfl, rfl, rfl, rfl, rfl, rfl, hq⟩

/-- Settles O57: the invariant gives the turn a byte to play and bounds the volume; the sample is 8 bits
wide by the decoder's clamp. -/
theorem sequencerStepOutputAndFrame : Obligations.SequencerStepOutputAndFrame := by
  intro s rest hs
  obtain ⟨t, ht⟩ := seqTurn_next (hs.withInputs rest)
  refine ⟨t, ht, ?_, seqTurn_frame ht⟩
  rcases seqTurn_output ht with silent | ⟨n, hdec, htrace⟩
  · exact .inl silent
  · have hx : sampleOf t.dec ≤ 255 := hdec ▸ sampleOf_decodeState_le ..
    have hv : intensity (sampleOf t.dec) s.vol ≤ 254 := intensity_le hx hs.volRange
    rw [intensity_eq] at hv
    exact .inr ⟨n, sampleOf t.dec, by rw [hdec]; rfl, hx, hv, htrace⟩

/-! #### Commands and the task -/

/-- R173: a command keeps the position, keeps the phase of an active task, and schedules nothing but a
fetch. -/
theorem CommandEffect.keepsTask {s t : State} {i : Instr} (h : CommandEffect s i t) :
    t.curBuf = s.curBuf ∧ t.byteIdx = s.byteIdx ∧
      (t.seqPhase = s.seqPhase ∨ s.seqPhase = .off ∧ t.seqPhase = .fetch) := by
  cases h with
  | begun b hi room idle off => exact ⟨rfl, rfl, .inr ⟨off, rfl⟩⟩
  | resumedOff playing waiting off => exact ⟨rfl, rfl, .inr ⟨off, rfl⟩⟩
  | _ => exact ⟨rfl, rfl, .inl rfl⟩

/-- R130: a session begun while an old task drains has its start deferred. -/
theorem CommandEffect.startPend_of_begun {s t : State} {i : Instr} (h : CommandEffect s i t)
    (active : s.seqPhase ≠ .off) (idle : s.playing = false) (begun : t.playing = true) :
    t.startPend = true := by
  cases h with
  | deferred => rfl
  | begun b hi room idle off => exact absurd off active
  | stopped => cases begun
  | _ => exact absurd (idle.symm.trans begun) (by decide)

/-- Settles O56: by the effects of a command; from `OFF`, one that keeps the phase leaves the block
`OFF`. -/
theorem commandsNeverDisturbActiveTask : Obligations.CommandsNeverDisturbActiveTask := by
  intro i s
  obtain ⟨t, ht⟩ := exec_next i s
  have effect := exec_effect ht
  obtain ⟨hbuf, hidx, hphase⟩ := effect.keepsTask
  refine ⟨t, ht, hbuf, hidx, fun active => ⟨?_, effect.startPend_of_begun active⟩, fun off => ?_⟩
  · exact hphase.resolve_right fun scheduled => active scheduled.1
  · exact hphase.imp (·.trans off) (·.2)

end Sys2Proof.Machine
end

section
/-! PROOF. The exceptions: which commands raise a fault, with which bit of `FAULT`, and that raising one
is all that such a step does. -/

namespace Sys2Proof.Machine

/-! #### Every fault -/

/-- Settles O53: by the input: the sequencer raises nothing (R196), and a command, legal or not, keeps
`FAULT` or has the record of one cause as its only effect. -/
theorem faultingCommandHasNoOtherEffect : Obligations.FaultingCommandHasNoOtherEffect := by
  intro s t h hr hne
  rcases step_cases h with ⟨-, h⟩ | ⟨rest, -, h⟩ | ⟨c, rest, i, hin, -, h⟩ |
    ⟨c, rest, e, hin, -, rfl⟩ | ⟨rest, hin, -⟩
  · exact absurd (seqTurn_faultReg h) hne
  · exact absurd (seqTurn_faultReg h) hne
  · rcases exec_faults_or_keeps h with ⟨cause, rfl⟩ | keeps
    · obtain ⟨hbit, hlt⟩ := cause_bit cause
      exact ⟨c, rest, cause.number - 1, hin, hlt, by rw [hbit]⟩
    · exact absurd keeps hne
  · exact ⟨c, rest, 0, hin, by decide, rfl⟩
  · exact absurd hin (hr rest)

/-! #### DECODE_WHILE_ACTIVE -/

/-- Settles O20: both decode commands raise DECODE_WHILE_ACTIVE, whose bit is bit 2. -/
theorem decodeWhileActiveOnlySetsFaultBitTwo : Obligations.DecodeWhileActiveOnlySetsFaultBitTwo := by
  intro n buf s active
  have raised : raiseFault .decodeWhileActive s =
      .next { s with faultReg := s.faultReg ||| 4#4, response := none } := raiseFault_eq ..
  exact ⟨(execDecodeNib_active active n).trans raised, (execDecodeBuf_active active buf).trans raised⟩

/-! #### QUEUE_OVERFLOW -/

/-- R132: PLAY and QUEUE are one operation. -/
theorem exec_of_play_or_queue {i : Instr} {b : Buffer} (hi : i = .play b ∨ i = .queue b) (s : State) :
    exec i s = enqueueAndStart b s := by
  rcases hi with rfl | rfl <;> rfl

/-- R121, R195: a buffer that finds the queue full is refused. -/
theorem enqueueAndStart_full {s : State} (full : queueFull s = true) (b : Buffer) :
    enqueueAndStart b s = raiseFault .queueOverflow s := if_pos full

/-- R131: a buffer that finds room raises nothing. -/
theorem enqueueAndStart_faultReg {s t : State} {b : Buffer} (room : queueFull s = false)
    (h : enqueueAndStart b s = .next t) : t.faultReg = s.faultReg := by
  rcases enqueueAndStart_cases h with ⟨full, -⟩ | ⟨-, -, rfl⟩ | ⟨-, -, -, rfl⟩ | ⟨-, -, -, rfl⟩
  · exact absurd (room.symm.trans full) Bool.false_ne_true
  all_goals rfl

/-- Settles O22: a reached capacity makes the queue full, whose fault's bit is bit 3; without a capacity
it never is. -/
theorem fullQueueOnlySetsFaultBitThree : Obligations.FullQueueOnlySetsFaultBitThree := by
  intro buf s i hi
  refine ⟨fun cap hcap reached => ?_, fun unbounded => ?_⟩
  · have full : queueFull s = true := (queueFull_iff s).2 ⟨cap, hcap, reached⟩
    rw [exec_of_play_or_queue hi, enqueueAndStart_full full]
    exact raiseFault_eq ..
  · have room : queueFull s = false := (queueFull_eq_false_iff s).2 (by simp [unbounded])
    obtain ⟨t, ht⟩ := exec_next i s
    exact ⟨t, ht, enqueueAndStart_faultReg room (exec_of_play_or_queue hi s ▸ ht)⟩

/-! #### BAD_RATE -/

/-- R137, R193: SET_RATE refuses an operand that is not positive. -/
theorem execSetRate_nonpos {r : Int} (nonpos : r ≤ 0) (s : State) :
    execSetRate r s = raiseFault .badRate s := if_pos nonpos

/-- Settles O30: the refused operand raises BAD_RATE, whose bit is bit 1. -/
theorem badRateOnlySetsFaultBitOne : Obligations.BadRateOnlySetsFaultBitOne :=
  fun _ s nonpos => (execSetRate_nonpos nonpos s).trans (raiseFault_eq .badRate s)

end Sys2Proof.Machine
end

section
/-! PROOF. Reset: what a reset input does in one step (R220), and that a block just reset is Idle and
stays as it is until a command comes (R206, R221). -/

namespace Sys2Proof.Machine

/-- R220: a reset is taken in one step, whatever the phase; the inputs after it stay. -/
theorem step_reset (s : State) (rest : List Input) :
    step { s with inputs := .reset :: rest } = .next (resetBlock { s with inputs := rest }) := rfl

/-- Settles O10: the step is resetBlock, whose every field its simp lemmas give. -/
theorem resetSetsEveryElement : Obligations.ResetSetsEveryElement := by
  intro s rest
  refine ⟨_, step_reset s rest, ?_⟩
  simp

/-- Settles O11: the same step, at the fields that are the model's own. -/
theorem resetKeepsParametersAndInputs : Obligations.ResetKeepsParametersAndInputs :=
  fun s rest => ⟨_, step_reset s rest, resetBlock_cfg _, resetBlock_inputs _, resetBlock_response _⟩

/-- R206: with no input and no task active, a step leaves the block as it is. -/
theorem step_of_nil_off {s : State} (noInput : s.inputs = []) (off : s.seqPhase = .off) :
    step s = .next s :=
  (step_of_nil noInput).trans (seqTurn_of_off off)

/-- Settles O12: the reset state is not playing, so it is Idle, and its sequencer is OFF with no input,
so a step changes nothing. -/
theorem afterResetIdleUntilCommand : Obligations.AfterResetIdleUntilCommand := by
  intro cfg
  have idle : (State.resetWith cfg).engine = .idle := (engine_eq_idle_iff _).2 rfl
  exact ⟨idle, rfl, rfl, rfl, step_of_nil_off rfl rfl⟩

end Sys2Proof.Machine
end
